-- ==== Sys2Proof/Word.lean ====
section
/-!
DEFINITION. The word types of HUFCORE (spec/00_scope.md R5): register words, bytes and symbols, node weights, arena indices.
Every quantity of the core is unsigned (R6).
-/

namespace Sys2Proof

/-- A host register or a command word: `REG_W` = 32 bits (R5, R70). -/
abbrev Word := BitVec 32

/-- A byte of the output stream, or a symbol of the alphabet of `NSYM` = 256 byte values (R5). -/
abbrev Byte := BitVec 8

/-- A node weight: `WEIGHT_W` = 40 bits (R5). -/
abbrev Weight := BitVec 40

/-- An arena index: `IDX_W` = 9 bits (R5). -/
abbrev NodeIdx := BitVec 9

/-- A stored code value: `CODE_STORE` = 256 bits (R5). -/
abbrev CodeBits := BitVec 256

end Sys2Proof
end

