-- ==== Sys2Proof/Config.lean ====
section
/-!
DEFINITION. What an implementation of HUFCORE fixes (spec/00_scope.md R5) and the free values the spec leaves open.
`OQ_DEPTH` and `BASE` are the spec's open parameters: each is built from a constant with no body, so that a claim proved of
this model holds for every value the spec admits. `Config.freeWord` is the source of unspecified values (notes/assumptions/3.md).
-/

namespace Sys2Proof

/-- `NSYM` (R5): the number of symbols. -/
abbrev Config.nsym : Nat := 256

/-- `NNODE` (R5): the number of arena entries. -/
abbrev Config.nnode : Nat := 511

/-- `EMIT_MAX` (R5, R124): the most bytes one command can append to the output queue. -/
def Config.emitMax : Nat := 32

/-- `WINDOW` (R5): the size in bytes of the host register window. -/
def Config.window : Nat := 64

/-- How far `OQ_DEPTH` lies above its least value 32. The spec leaves it open (R5, spec/93_implementation_defined.md I5). -/
opaque Config.oqSlack : Nat

/-- `OQ_DEPTH` (R5): the capacity of the output queue in bytes, any integer of at least 32. -/
def Config.oqDepth : Nat := Config.oqSlack + 32

/-- Which 64-byte block of the host's address space the window occupies. The spec leaves it open (R5, R52, I4). -/
opaque Config.baseBlock : Nat

/-- `BASE` (R5, R52): the host address of the register window, 64-byte aligned. -/
def Config.base : Nat := 64 * Config.baseBlock

/-- FREE VALUE (spec/70_reset_and_hazards.md R187, I2): the `n`-th unspecified value a host read returns. It has no body:
nothing can be proved of it, and the step applies it to a fresh `n` at every such read. -/
opaque Config.freeWord : Nat → Word

end Sys2Proof
end

