-- ==== Sys2Proof/Syntax.lean ====
section
/-!
DEFINITION. The commands of HUFCORE command set version 1 (spec/30_encoding.md R72, spec/opcode_table.json): one constructor
per row, its arguments the operand fields of the command word at their own widths (R73). SETFREQ's 32-bit count is no field of
the word: it is the operand latched with it (R70), which the meaning reads from State.
-/

namespace Sys2Proof

/-- A command of the core. -/
inductive Instr where
  /-- NOP (R85). -/
  | nop
  /-- CLEAR (R86). -/
  | clear
  /-- SETFREQ sym (R87). -/
  | setfreq (sym : Byte)
  /-- BUILD (R95). -/
  | build
  /-- QLEAVES (R97). -/
  | qleaves
  /-- QROOT (R98). -/
  | qroot
  /-- QNODE idx, sel (R99). -/
  | qnode (idx : BitVec 9) (sel : BitVec 2)
  /-- EXTRACT (R106). -/
  | extract
  /-- QLEN sym (R108). -/
  | qlen (sym : Byte)
  /-- QBITS sym, k (R109). -/
  | qbits (sym : Byte) (k : BitVec 3)
  /-- ENCODE sym (R121). -/
  | encode (sym : Byte)
  /-- PACK len, bits (R122). -/
  | pack (len : BitVec 8) (bits : BitVec 16)
  /-- FLUSH (R123). -/
  | flush
  /-- DECODE nbits, byte (R141). -/
  | decode (nbits : BitVec 8) (byte : Byte)
  /-- DECRESET (R142). -/
  | decreset
deriving DecidableEq, Repr

end Sys2Proof
end

