-- ==== Sys2Proof/WellFormed.lean ====
section
/-!
DEFINITION. Well-formedness of a command as a term. Every operand has exactly the width of its field, so every term of `Instr`
has an encoding; what is left to check is the operand range of the command word alone (spec/30_encoding.md R72, last paragraph;
spec/60_exceptions.md R152 item 4). A command out of this range is still a command: it decodes, it runs, and its rule makes it
raise ILLEGAL_OPERAND.
-/

namespace Sys2Proof

/-- QNODE: `sel` selects one of three field groups, 3 is out of range (R72, R99). -/
def selOk (sel : BitVec 2) : Bool := sel != 3#2

/-- PACK: at most 16 bits, and no set bit at position `len` or above (R72, R122). -/
def packOk (len : BitVec 8) (bits : BitVec 16) : Bool :=
  decide (len.toNat ≤ 16) && (bits >>> len.toNat == 0#16)

/-- DECODE: 1 to 8 bits of the byte (R72, R141). -/
def nbitsOk (nbits : BitVec 8) : Bool :=
  decide (1 ≤ nbits.toNat) && decide (nbits.toNat ≤ 8)

/-- The operands are in the range the command word alone must keep (R72). -/
def Instr.wellFormed : Instr → Bool
  | .nop => true
  | .clear => true
  | .setfreq _ => true
  | .build => true
  | .qleaves => true
  | .qroot => true
  | .qnode _ sel => selOk sel
  | .extract => true
  | .qlen _ => true
  | .qbits _ _ => true
  | .encode _ => true
  | .pack len bits => packOk len bits
  | .flush => true
  | .decode nbits _ => nbitsOk nbits
  | .decreset => true

end Sys2Proof
end

