-- ==== Sys2Proof/Decode.lean ====
section
/-!
DEFINITION. Decoding and encoding of command words (spec/30_encoding.md R70 to R76, spec/opcode_table.json). The decoder is total
on 32-bit words and rejects by name; the two rejections are the two ways a word is illegal (R75, R76).
-/

namespace Sys2Proof

/-- `OP` = w[31:24] (R71). -/
def opField (w : Word) : BitVec 8 := w.extractLsb' 24 8

/-- `A` = w[23:16] (R71): `sym`, `len` or `nbits` (R73). -/
def aField (w : Word) : BitVec 8 := w.extractLsb' 16 8

/-- `IMM` = w[15:0] (R71): `bits` (R73). -/
def immField (w : Word) : BitVec 16 := w.extractLsb' 0 16

/-- `sel` = w[17:16] (R73). -/
def selField (w : Word) : BitVec 2 := w.extractLsb' 16 2

/-- `idx` = w[8:0] (R73). -/
def idxField (w : Word) : BitVec 9 := w.extractLsb' 0 9

/-- `k` = w[2:0] (R73). -/
def kField (w : Word) : BitVec 3 := w.extractLsb' 0 3

/-- `byte` = w[7:0] (R73). -/
def byteField (w : Word) : Byte := w.extractLsb' 0 8

/-- One row of spec/opcode_table.json: a word spells the row's command exactly when its bits under `mask` are `value`; `build`
assembles the operands (R73). -/
structure Row where
  mnemonic : String
  value : Word
  mask : Word
  build : Word → Instr

/-- spec/opcode_table.json, row by row (R72, R74). -/
def opcodeTable : List Row :=
  [ ⟨"NOP",      0x00000000#32, 0xFFFFFFFF#32, fun _ => .nop⟩,
    ⟨"CLEAR",    0x01000000#32, 0xFFFFFFFF#32, fun _ => .clear⟩,
    ⟨"SETFREQ",  0x02000000#32, 0xFF00FFFF#32, fun w => .setfreq (aField w)⟩,
    ⟨"BUILD",    0x10000000#32, 0xFFFFFFFF#32, fun _ => .build⟩,
    ⟨"QLEAVES",  0x11000000#32, 0xFFFFFFFF#32, fun _ => .qleaves⟩,
    ⟨"QROOT",    0x12000000#32, 0xFFFFFFFF#32, fun _ => .qroot⟩,
    ⟨"QNODE",    0x13000000#32, 0xFFFCFE00#32, fun w => .qnode (idxField w) (selField w)⟩,
    ⟨"EXTRACT",  0x20000000#32, 0xFFFFFFFF#32, fun _ => .extract⟩,
    ⟨"QLEN",     0x21000000#32, 0xFF00FFFF#32, fun w => .qlen (aField w)⟩,
    ⟨"QBITS",    0x22000000#32, 0xFF00FFF8#32, fun w => .qbits (aField w) (kField w)⟩,
    ⟨"ENCODE",   0x30000000#32, 0xFF00FFFF#32, fun w => .encode (aField w)⟩,
    ⟨"PACK",     0x31000000#32, 0xFF000000#32, fun w => .pack (aField w) (immField w)⟩,
    ⟨"FLUSH",    0x32000000#32, 0xFFFFFFFF#32, fun _ => .flush⟩,
    ⟨"DECODE",   0x40000000#32, 0xFF00FF00#32, fun w => .decode (aField w) (byteField w)⟩,
    ⟨"DECRESET", 0x41000000#32, 0xFFFFFFFF#32, fun _ => .decreset⟩ ]

/-- Why a word spells no command (R76). -/
inductive DecodeError where
  /-- Its OP value is not assigned (R74). -/
  | unassignedOp
  /-- Its OP is assigned and one of that command's reserved bits is set (R72). -/
  | reservedBit
deriving DecidableEq, Repr

/-- The row of an assigned OP value (R74); every row's mask covers the whole of OP. -/
def rowOf (op : BitVec 8) : Option Row :=
  opcodeTable.find? (fun r => opField r.value == op)

/-- The two checks of `execute` in R75 (OP first, then the reserved bits), then the operands of R73. -/
def decode (w : Word) : Except DecodeError Instr :=
  match rowOf (opField w) with
  | none => .error .unassignedOp
  | some r => if w &&& r.mask = r.value then .ok (r.build w) else .error .reservedBit

/-- The command word of format C (R71): OP, A, IMM, from the most significant byte down. -/
def formC (op a : BitVec 8) (imm : BitVec 16) : Word := op ++ a ++ imm

/-- The encoding of each command (R72): every reserved bit is 0. -/
def encode : Instr → Word
  | .nop => formC 0x00#8 0#8 0#16
  | .clear => formC 0x01#8 0#8 0#16
  | .setfreq sym => formC 0x02#8 sym 0#16
  | .build => formC 0x10#8 0#8 0#16
  | .qleaves => formC 0x11#8 0#8 0#16
  | .qroot => formC 0x12#8 0#8 0#16
  | .qnode idx sel => formC 0x13#8 (0#6 ++ sel) (0#7 ++ idx)
  | .extract => formC 0x20#8 0#8 0#16
  | .qlen sym => formC 0x21#8 sym 0#16
  | .qbits sym k => formC 0x22#8 sym (0#13 ++ k)
  | .encode sym => formC 0x30#8 sym 0#16
  | .pack len bits => formC 0x31#8 len bits
  | .flush => formC 0x32#8 0#8 0#16
  | .decode nbits byte => formC 0x40#8 nbits (0#8 ++ byte)
  | .decreset => formC 0x41#8 0#8 0#16

/-- The command word a table row's bits spell: `w` as spec/opcode_table.json numbers its bits, every bit above `nbits` 0. -/
def tableWord (nbits w : Nat) : Word := BitVec.ofNat 32 (w % 2 ^ nbits)

/-- What the decoder reads from a table row's word (one 32-bit word, R70); no command is longer than 32 bits. -/
def decodeTableWord (nbits w : Nat) : Option Instr :=
  if nbits ≤ 32 then
    match decode (tableWord nbits w) with
    | .ok i => some i
    | .error _ => none
  else none

end Sys2Proof
end

