-- ==== Sys2Proof/Machine/State.lean ====
section
/-!
DEFINITION. The state of HUFCORE as plain data (spec/10_state.md R20 to R39, spec/20_memory.md R48), the two reasons a step can
stop, and the state after reset (spec/70_reset_and_hazards.md R180, R181). The last three fields of `State` are the model's own:
the environment's events still to come, the values the host has read, and the counter of free values (notes/assumptions/2.md,
notes/assumptions/3.md).
-/

namespace Sys2Proof.Machine

/-- The kind of an arena entry (R34); the fourth 2-bit value is never written. -/
inductive NodeKind where
  /-- 0: not in the forest. -/
  | empty
  /-- 1: one byte value and its frequency. -/
  | leaf
  /-- 2: the merge of two lighter subtrees. -/
  | internal
deriving DecidableEq, Repr

/-- One arena entry (R34). -/
structure Node where
  kind : NodeKind
  consumed : Bool
  symbol : Byte
  weight : Weight
  left : NodeIdx
  right : NodeIdx
deriving DecidableEq, Repr

/-- The Empty entry, every field 0 (R34). -/
def Node.empty : Node := ⟨.empty, false, 0#8, 0#40, 0#9, 0#9⟩

/-- The error codes 0 to 8 of R150; 9 to 15 are never produced. -/
inductive ErrCode where
  | none | emptyTree | noTree | codesStale | absentSymbol | degenerateTree | illegalCmd | illegalOperand | overrun
deriving DecidableEq, Repr

/-- A command issued and not yet executed: the word, and the value ARG had at that CMD write (R37). -/
structure Pending where
  word : Word
  arg : Word
deriving DecidableEq, Repr

/-- What happens to the core next (R10, R54): its own step, one host access, or its reset input. -/
inductive Event where
  /-- The core step (R47). -/
  | core
  /-- The reset input (R180). -/
  | reset
  /-- A host read of `size` bytes at host address `addr` (R40). -/
  | hostRead (addr size : Nat)
  /-- A host write of `size` bytes at host address `addr` (R41). -/
  | hostWrite (addr size : Nat) (value : Word)
deriving DecidableEq, Repr

/-- The state of the core, and the model's own three fields. -/
structure State where
  /-- `ARG` (R23). -/
  arg : Word
  /-- `RESULT` (R25). -/
  result : Word
  /-- `ERR_CODE` behind `ERR` (R27). -/
  errCode : ErrCode
  /-- `ERR_WORD` behind `ERRCMD` (R28). -/
  errWord : Word
  /-- `PENDING` (R37). -/
  pending : Option Pending
  /-- `OUTQ`, oldest byte first (R48). -/
  outq : List Byte
  /-- `PK_ACC` (R38). -/
  pkAcc : BitVec 8
  /-- `PK_CNT` (R38). -/
  pkCnt : BitVec 3
  /-- `DEC_CUR` (R39). -/
  decCur : NodeIdx
  /-- `PRESENT[0..255]` (R33). -/
  present : Vector Bool 256
  /-- `FREQ[0..255]` (R33). -/
  freq : Vector (BitVec 32) 256
  /-- `NODE[0..510]` (R34). -/
  node : Vector Node 511
  /-- `NCOUNT` (R35). -/
  ncount : BitVec 10
  /-- `NLEAF` (R35). -/
  nleaf : BitVec 9
  /-- `TREE_VALID` (R35). -/
  treeValid : Bool
  /-- `CODE_VALID[0..255]` (R36). -/
  codeValid : Vector Bool 256
  /-- `CODE_LEN[0..255]` (R36). -/
  codeLen : Vector (BitVec 8) 256
  /-- `CODE_BITS[0..255]` (R36). -/
  codeBits : Vector CodeBits 256
  /-- `CODES_VALID` (R36). -/
  codesValid : Bool
  /-- `LASTBITS` (R36). -/
  lastBits : BitVec 3
  /-- MODEL: the events still to come, next first; when none is left the core takes its own steps (R54, R193). -/
  sched : List Event
  /-- MODEL: the values host reads have returned, first read first (R40). -/
  reads : List Word
  /-- MODEL: the index of the next free value `Config.freeWord` gives (R187, I2). -/
  freeIdx : Nat
deriving DecidableEq, Repr

/-- A step never faults: an error of the core is an architectural outcome, recorded in `errCode` and `errWord` (R166), and a
core with nothing to do stays as it is (R165). The type has no reason in it. -/
inductive Fault where
deriving DecidableEq, Repr

/-- Why a step has no meaning. -/
inductive Refusal where
  /-- Raised by an arm of `exec` whose command has no meaning yet; safe. No arm raises it in this model. -/
  | notModelled (mnemonic : String)
  /-- Raised by a host access that is not an aligned 32-bit access inside the register window; safe (R45, I1). -/
  | accessNotAdmitted
deriving DecidableEq, Repr

/-- The state after reset (R181): nothing is unspecified. The environment has nothing scheduled and has read nothing. -/
def State.reset : State where
  arg := 0#32
  result := 0#32
  errCode := .none
  errWord := 0#32
  pending := none
  outq := []
  pkAcc := 0#8
  pkCnt := 0#3
  decCur := 0#9
  present := Vector.replicate 256 false
  freq := Vector.replicate 256 0#32
  node := Vector.replicate 511 Node.empty
  ncount := 0#10
  nleaf := 0#9
  treeValid := false
  codeValid := Vector.replicate 256 false
  codeLen := Vector.replicate 256 0#8
  codeBits := Vector.replicate 256 0#256
  codesValid := false
  lastBits := 0#3
  sched := []
  reads := []
  freeIdx := 0

end Sys2Proof.Machine
end

