-- ==== Sys2Proof/Machine/Ops.lean ====
section
/-!
DEFINITION. The named operations over State that the meanings share: the arrays' reads and writes, the discarding of the tree and
of the codes (spec/40_control.md R88, R89), raising an error and recovering from it (spec/60_exceptions.md R153, R155), the end of
a command (spec/20_memory.md R47), the checks before its effect (R152), the lockout (R154), the hold (R48) and the issue of a
command (R46).
-/

namespace Sys2Proof.Machine

/-- The outcome type of every step. -/
abbrev Result := Host.Outcome State Fault Refusal

/-- Element `sym` of an array over the symbols (R50). -/
def symGet {α : Type} (t : Vector α 256) (sym : Byte) : α := t[sym.toNat]'sym.isLt

/-- Element `sym` of an array over the symbols takes the value `v` (R50). -/
def symSet {α : Type} (t : Vector α 256) (sym : Byte) (v : α) : Vector α 256 := t.set sym.toNat v sym.isLt

/-- The symbols 0 to 255 in ascending order (R93). -/
def symbols : List Byte := (List.range Config.nsym).map (BitVec.ofNat 8)

/-- Entry `i` of the arena; there is no entry at 511 or above, and asking for one gives an Empty entry (notes/assumptions/5.md). -/
def nodeAt (arena : Vector Node 511) (i : Nat) : Node := (arena[i]?).getD Node.empty

/-- The forest: the entries at indices 0 to `NCOUNT` − 1, in index order (R34). -/
def State.forest (s : State) : List Node := s.node.toList.take s.ncount.toNat

/-- The arena that holds a forest at indices 0 and up, every entry above it Empty (R34). -/
def arenaOf (forest : List Node) : Vector Node 511 :=
  ⟨⟨(forest ++ List.replicate 511 Node.empty).take 511⟩, by
    simp only [List.size_toArray, List.length_take, List.length_append, List.length_replicate]; omega⟩

/-- `discard_tree()` (R89). -/
def State.discardTree (s : State) : State :=
  { s with
    node := Vector.replicate 511 Node.empty, ncount := 0#10, nleaf := 0#9, treeValid := false, decCur := 0#9 }

/-- `clear_codes()` (R88). -/
def State.clearCodes (s : State) : State :=
  { s with
    codeValid := Vector.replicate 256 false, codeLen := Vector.replicate 256 0#8, codeBits := Vector.replicate 256 0#256,
    lastBits := 0#3, codesValid := false }

/-- The frequency table is emptied (R86). -/
def State.clearFreqs (s : State) : State :=
  { s with present := Vector.replicate 256 false, freq := Vector.replicate 256 0#32 }

/-- The packer becomes empty (R86, R123). -/
def State.clearPacker (s : State) : State := { s with pkAcc := 0#8, pkCnt := 0#3 }

/-- `ARG <- v` (R23, R41). -/
def State.setArg (s : State) (v : Word) : State := { s with arg := v }

/-- MODEL: the events still to come are `rest` (notes/assumptions/2.md). -/
def State.setSched (s : State) (rest : List Event) : State := { s with sched := rest }

/-- `RESULT <- v` (R25). -/
def State.setResult (s : State) (v : Word) : State := { s with result := v }

/-- A command's emitted bytes join the output queue, in their `emit` order (R8, R49). -/
def State.emits (s : State) (bytes : List Byte) : State := { s with outq := s.outq ++ bytes }

/-- TAKING AN ERROR, `raise E(w)` (R153): the first error since CLEAR or reset is recorded with its command word; a later one is
not. There is no vector, no saved status and no change of mode. -/
def State.raise (s : State) (e : ErrCode) (w : Word) : State :=
  if s.errCode = .none then { s with errCode := e, errWord := w } else s

/-- RETURN FROM AN ERROR (R155): what CLEAR does to the error registers, which ends the lockout. -/
def State.endLockout (s : State) : State := { s with errCode := .none, errWord := 0#32 }

/-- `PENDING <- empty`, at the instant the command completes (R47). -/
def State.complete (s : State) : State := { s with pending := none }

/-- The first condition that holds names the error (R152). -/
def firstError : List (Bool × ErrCode) → Option ErrCode
  | [] => none
  | (holds, e) :: rest => if holds then some e else firstError rest

/-- One command, atomically (R47, R152, R153): its checks in order, before every effect; the first check that holds raises its
error with the command word and nothing else happens; if none holds the command has its effect. Either way it completes. -/
def State.perform (s : State) (w : Word) (checks : List (Bool × ErrCode)) (effect : State) : Result :=
  match firstError checks with
  | some e => .next (s.raise e w).complete
  | none => .next effect.complete

/-- The lockout (R47, R154): while an error is recorded, every word whose OP is not CLEAR's is discarded. -/
def lockedOut (s : State) (w : Word) : Bool := decide (s.errCode ≠ .none) && opField w != 0x01#8

/-- The emitting commands, judged on the opcode field alone (R48): ENCODE, PACK, FLUSH, DECODE. -/
def isEmitting (w : Word) : Bool := [0x30#8, 0x31#8, 0x32#8, 0x40#8].contains (opField w)

/-- The hold (R48): an emitting command waits while the queue may not have room for what it can emit. -/
def held (s : State) (w : Word) : Bool :=
  isEmitting w && decide (Config.oqDepth - Config.emitMax < s.outq.length)

/-- Command issue (R46): a write of `v` to CMD latches the word and the value of ARG, unless a command is still pending, which is
OVERRUN. -/
def State.issue (s : State) (v : Word) : State :=
  match s.pending with
  | some _ => s.raise .overrun v
  | none => { s with pending := some ⟨v, s.arg⟩ }

end Sys2Proof.Machine
end

