-- ==== Sys2Proof/Machine/Flags.lean ====
section
/-!
DEFINITION. The host-visible registers as views of the state (spec/10_state.md R24 to R32): every flag and every field, while the
core is not busy. What a read returns while it is busy is in Sys2Proof/Machine/Window.lean.
-/

namespace Sys2Proof.Machine

/-- The number of an error code (R150). -/
def ErrCode.code : ErrCode → BitVec 4
  | .none => 0#4
  | .emptyTree => 1#4
  | .noTree => 2#4
  | .codesStale => 3#4
  | .absentSymbol => 4#4
  | .degenerateTree => 5#4
  | .illegalCmd => 6#4
  | .illegalOperand => 7#4
  | .overrun => 8#4

/-- The number of a node kind (R34). -/
def NodeKind.code : NodeKind → BitVec 2
  | .empty => 0#2
  | .leaf => 1#2
  | .internal => 2#2

/-- `ID` (R24): the ASCII bytes of HUF, then version 1. -/
def idWord : Word := 0x48554601#32

/-- BUSY (R26, R37). -/
def State.busy (s : State) : Bool := s.pending.isSome

/-- ERRF (R26). -/
def State.errF (s : State) : Bool := decide (s.errCode ≠ .none)

/-- `STATUS` (R26): 0, NCOUNT [26:17], NLEAF [16:8], 0, LASTBITS [6:4], ERRF, CODES_VALID, TREE_VALID, BUSY. -/
def State.statusWord (s : State) : Word :=
  0#5 ++ s.ncount ++ s.nleaf ++ 0#1 ++ s.lastBits ++ BitVec.ofBool s.errF ++ BitVec.ofBool s.codesValid ++
    BitVec.ofBool s.treeValid ++ BitVec.ofBool s.busy

/-- `ERR` (R27). -/
def State.errRegister (s : State) : Word := 0#28 ++ s.errCode.code

/-- `OUTDATA` (R29): bit 8 set and the oldest byte, or 0 when the queue is empty. -/
def State.outData (s : State) : Word :=
  match s.outq with
  | [] => 0#32
  | b :: _ => 0#23 ++ 1#1 ++ b

/-- `OUTLEVEL` (R30). -/
def State.outLevel (s : State) : Word := BitVec.ofNat 32 s.outq.length

/-- `PKSTAT` (R31): PK_CNT [10:8], PK_ACC [7:0]. -/
def State.pkStat (s : State) : Word := 0#21 ++ s.pkCnt ++ s.pkAcc

/-- AT_ROOT (R32). -/
def State.atRoot (s : State) : Bool :=
  s.treeValid && decide (0 < s.ncount.toNat) && decide (s.decCur.toNat = s.ncount.toNat - 1)

/-- `DECSTAT` (R32): AT_ROOT [16], DEC_CUR [8:0]. -/
def State.decStat (s : State) : Word := 0#15 ++ BitVec.ofBool s.atRoot ++ 0#7 ++ s.decCur

end Sys2Proof.Machine
end

