-- ==== Sys2Proof/Machine/Operands.lean ====
section
/-!
DEFINITION. Every operand form of a command (spec/30_encoding.md R72, R73): the command word and the operand latched with it, the
bit lists that PACK, ENCODE and DECODE walk (spec/00_scope.md R7), and the range checks on the command word alone
(spec/60_exceptions.md R152 item 4).
-/

namespace Sys2Proof.Machine

/-- The command `i` being executed, as word and latched operand: the pair in PENDING (R37, R47). Where nothing is pending, which
no step meets, it is the pair that issuing `i` at this instant would latch (R46; notes/assumptions/4.md). -/
def State.command (s : State) (i : Instr) : Pending := s.pending.getD ⟨encode i, s.arg⟩

/-- The word a command's error records (R153). -/
def State.commandWord (s : State) (i : Instr) : Word := (s.command i).word

/-- `count` = the latched ARG (R73). -/
def State.countOperand (s : State) (i : Instr) : BitVec 32 := (s.command i).arg

/-- The low `n` bits of a value as a bit list, bit 0 first (R7, R120). -/
def lowBits {m : Nat} (v : BitVec m) (n : Nat) : List Bool := (List.range n).map v.getLsbD

/-- `bits_of(l)`: the number whose bit j is `l[j]` (R7). -/
def bitsOf : List Bool → Nat
  | [] => 0
  | b :: rest => b.toNat + 2 * bitsOf rest

/-- QNODE's `sel` out of range (R99). -/
def selBad (sel : BitVec 2) : Bool := sel == 3#2

/-- PACK's `len` out of range (R122). -/
def lenBad (len : BitVec 8) : Bool := decide (len.toNat > 16)

/-- PACK's `bits` has a set bit at position `len` or above (R122). -/
def bitsBad (len : BitVec 8) (bits : BitVec 16) : Bool :=
  decide (len.toNat < 16) && bits >>> len.toNat != 0#16

/-- DECODE's `nbits` out of range (R141). -/
def nbitsBad (nbits : BitVec 8) : Bool := decide (nbits.toNat = 0) || decide (nbits.toNat > 8)

end Sys2Proof.Machine
end

