-- ==== Sys2Proof/Machine/Tree.lean ====
section
/-!
DEFINITION. The tree constructor (spec/41_tree.md R90 to R99): the node comparator, the priority merger, and the commands BUILD,
QLEAVES, QROOT and QNODE. BUILD works on the forest as the list of its nodes in index order.
-/

namespace Sys2Proof.Machine

/-- `<lex` on tuples of one length (R6): less at the first position where they differ. -/
def lexLt : List Nat → List Nat → Bool
  | a :: as, b :: bs => decide (a < b) || (decide (a = b) && lexLt as bs)
  | _, _ => false

/-- The symbol a node compares with (R90): a leaf's symbol, 0 for an internal node. -/
def symkey (n : Node) : Byte :=
  match n.kind with
  | .leaf => n.symbol
  | .internal => 0#8
  | .empty => 0#8

/-- `key(i)` of the node `n` at index `i` (R90), all components unsigned. -/
def nodeKey (i : Nat) (n : Node) : List Nat := [n.consumed.toNat, n.weight.toNat, (symkey n).toNat, i]

/-- The comparator `less(i, j)` (R91), on (index, node) pairs. -/
def nodeLess (a b : Nat × Node) : Bool := lexLt (nodeKey a.1 a.2) (nodeKey b.1 b.2)

/-- The linear scan of R92 over the nodes from index `i` on, with the best (index, node) so far. -/
def scanLeast : List Node → Nat → Nat × Node → Nat
  | [], _, best => best.1
  | n :: rest, i, best => scanLeast rest (i + 1) (if nodeLess (i, n) best then (i, n) else best)

/-- `argmin_unconsumed()` (R92): the index of the least node of the forest. -/
def argminUnconsumed : List Node → Nat
  | [] => 0
  | n :: rest => scanLeast rest 1 (0, n)

/-- Node `i` of a forest. -/
def forestAt (f : List Node) (i : Nat) : Node := (f[i]?).getD Node.empty

/-- `NODE[i].consumed <- 1` (R94). -/
def consume (f : List Node) (i : Nat) : List Node := f.set i { forestAt f i with consumed := true }

/-- The leaf of one frequency-table entry (R93). -/
def leafNode (sym : Byte) (count : BitVec 32) : Node := ⟨.leaf, false, sym, count.setWidth 40, 0#9, 0#9⟩

/-- Leaf insertion (R93): one leaf per present symbol, in ascending symbol order. -/
def leavesOf (present : Vector Bool 256) (freq : Vector (BitVec 32) 256) : List Node :=
  symbols.filterMap fun sym => if symGet present sym then some (leafNode sym (symGet freq sym)) else none

/-- The node a merge of entries `i` and `j` appends (R94): the 40-bit sum, left `i`, right `j`. -/
def mergedNode (f : List Node) (i j : Nat) : Node :=
  ⟨.internal, false, 0#8, (forestAt f i).weight + (forestAt f j).weight, BitVec.ofNat 9 i, BitVec.ofNat 9 j⟩

/-- `merge()` (R94): scan, mark, scan again with the first excluded, mark, append. -/
def merge (f : List Node) : List Node :=
  let i := argminUnconsumed f
  let f₁ := consume f i
  let j := argminUnconsumed f₁
  let f₂ := consume f₁ j
  f₂ ++ [mergedNode f₂ i j]

/-- `k` merges. -/
def mergeTimes : Nat → List Node → List Node
  | 0, f => f
  | k + 1, f => mergeTimes k (merge f)

/-- The forest BUILD makes of the frequency table (R95): the leaves, then `NLEAF` − 1 merges. -/
def forestOf (present : Vector Bool 256) (freq : Vector (BitVec 32) 256) : List Node :=
  mergeTimes ((leavesOf present freq).length - 1) (leavesOf present freq)

/-- The index of the root, `NCOUNT` − 1, or 0 where there is none (R35, R95, R142). -/
def rootIdx (ncount : BitVec 10) : NodeIdx := if 0 < ncount.toNat then (ncount - 1#10).setWidth 9 else 0#9

/-- A new forest of `leaves` leaves: the arena, the counters, the flag, and the cursor at the root (R95). -/
def State.setForest (s : State) (f : List Node) (leaves : Nat) : State :=
  { s with
    node := arenaOf f, ncount := BitVec.ofNat 10 f.length, nleaf := BitVec.ofNat 9 leaves, treeValid := true,
    decCur := rootIdx (BitVec.ofNat 10 f.length) }

/-- The forest is built from the frequency table, in place of any earlier one and its codes (R95). -/
def buildEffect (s : State) : State :=
  s.discardTree.clearCodes.setForest (forestOf s.present s.freq) (leavesOf s.present s.freq).length

/-- BUILD (R95). -/
def execBuild (s : State) : Result := s.perform (s.commandWord .build) [] (buildEffect s)

/-- NO_TREE, then EMPTY_TREE (R97). -/
def qleavesChecks (s : State) : List (Bool × ErrCode) := [(!s.treeValid, .noTree), (s.nleaf == 0#9, .emptyTree)]

/-- The leaf count minus one (R97). -/
def qleavesEffect (s : State) : State := s.setResult ((s.nleaf - 1#9).setWidth 32)

/-- QLEAVES (R97). -/
def execQleaves (s : State) : Result := s.perform (s.commandWord .qleaves) (qleavesChecks s) (qleavesEffect s)

/-- NO_TREE, then EMPTY_TREE (R98). -/
def qrootChecks (s : State) : List (Bool × ErrCode) := [(!s.treeValid, .noTree), (s.ncount == 0#10, .emptyTree)]

/-- The root's arena index (R98). -/
def qrootEffect (s : State) : State := s.setResult ((s.ncount - 1#10).setWidth 32)

/-- QROOT (R98). -/
def execQroot (s : State) : Result := s.perform (s.commandWord .qroot) (qrootChecks s) (qrootEffect s)

/-- The field group `sel` of a node (R99). -/
def nodeFields (n : Node) (sel : BitVec 2) : Word :=
  if sel = 0#2 then 0#3 ++ n.kind.code ++ BitVec.ofBool n.consumed ++ n.symbol ++ n.right ++ n.left
  else if sel = 1#2 then n.weight.extractLsb' 0 32
  else (n.weight.extractLsb' 32 8).setWidth 32

/-- ILLEGAL_OPERAND on the word, then NO_TREE, then ILLEGAL_OPERAND on the state (R99, R152). -/
def qnodeChecks (idx : BitVec 9) (sel : BitVec 2) (s : State) : List (Bool × ErrCode) :=
  [(selBad sel, .illegalOperand), (!s.treeValid, .noTree), (decide (s.ncount.toNat ≤ idx.toNat), .illegalOperand)]

/-- One field group of one arena entry (R99). -/
def qnodeEffect (idx : BitVec 9) (sel : BitVec 2) (s : State) : State :=
  s.setResult (nodeFields (nodeAt s.node idx.toNat) sel)

/-- QNODE idx, sel (R99). -/
def execQnode (idx : BitVec 9) (sel : BitVec 2) (s : State) : Result :=
  s.perform (s.commandWord (.qnode idx sel)) (qnodeChecks idx sel s) (qnodeEffect idx sel s)

end Sys2Proof.Machine
end

