-- ==== Sys2Proof/Machine/Codes.lean ====
section
/-!
DEFINITION. The code-table extractor (spec/42_codes.md R105 to R109): the code of a leaf, and the commands EXTRACT, QLEN and QBITS.
-/

namespace Sys2Proof.Machine

/-- The path from the root to node `cur`, found in the nodes at indices `i` and up (R105): the internal node whose child `cur` is
contributes its edge as the last bit, 0 for left and 1 for right, after its own path. Every parent lies above its children
(R96 (3)), so one pass upward meets all of them; above the root there is none, and the path is empty. -/
def climb : List Node → Nat → Nat → List Bool
  | [], _, _ => []
  | n :: rest, i, cur =>
    if n.kind = .internal ∧ n.left.toNat = cur then climb rest (i + 1) i ++ [false]
    else if n.kind = .internal ∧ n.right.toNat = cur then climb rest (i + 1) i ++ [true]
    else climb rest (i + 1) cur

/-- `path(i)` in a forest (R105). -/
def codePath (f : List Node) (i : Nat) : List Bool := climb (f.drop (i + 1)) (i + 1) i

/-- The three arrays of the code table (R36). -/
structure CodeTable where
  valid : Vector Bool 256
  len : Vector (BitVec 8) 256
  bits : Vector CodeBits 256
deriving DecidableEq, Repr

/-- The empty code table (R88). -/
def CodeTable.empty : CodeTable := ⟨Vector.replicate 256 false, Vector.replicate 256 0#8, Vector.replicate 256 0#256⟩

/-- A symbol's code enters the table (R106). -/
def CodeTable.enter (t : CodeTable) (sym : Byte) (path : List Bool) : CodeTable :=
  ⟨symSet t.valid sym true, symSet t.len sym (BitVec.ofNat 8 path.length), symSet t.bits sym (BitVec.ofNat 256 (bitsOf path))⟩

/-- The code table of a forest whose leaves are the entries 0 to `leaves` − 1 (R106). -/
def codeTable (f : List Node) (leaves : Nat) : CodeTable :=
  (List.range leaves).foldl (fun t i => t.enter (forestAt f i).symbol (codePath f i)) CodeTable.empty

/-- `total`, the number of bits all the codes of the counted input have (R106), exact. -/
def totalBits (f : List Node) (leaves : Nat) (t : CodeTable) : Nat :=
  ((List.range leaves).map fun i => (forestAt f i).weight.toNat * (symGet t.len (forestAt f i).symbol).toNat).sum

/-- The code table and `LASTBITS` take new values, and the codes are valid (R106). -/
def State.setCodes (s : State) (t : CodeTable) (total : Nat) : State :=
  { s with
    codeValid := t.valid, codeLen := t.len, codeBits := t.bits, lastBits := BitVec.ofNat 3 (total % 8), codesValid := true }

/-- NO_TREE, then EMPTY_TREE (R106). -/
def extractChecks (s : State) : List (Bool × ErrCode) := [(!s.treeValid, .noTree), (s.ncount == 0#10, .emptyTree)]

/-- The code table and `LASTBITS` of the current forest (R106). -/
def extractEffect (s : State) : State :=
  let t := codeTable s.forest s.nleaf.toNat
  s.clearCodes.setCodes t (totalBits s.forest s.nleaf.toNat t)

/-- EXTRACT (R106). -/
def execExtract (s : State) : Result := s.perform (s.commandWord .extract) (extractChecks s) (extractEffect s)

/-- CODES_STALE (R108, R109). -/
def staleCheck (s : State) : Bool × ErrCode := (!s.codesValid, .codesStale)

/-- Presence in bit 31, length below (R108). -/
def qlenEffect (sym : Byte) (s : State) : State :=
  s.setResult (BitVec.ofBool (symGet s.codeValid sym) ++ 0#23 ++ symGet s.codeLen sym)

/-- QLEN sym (R108). -/
def execQlen (sym : Byte) (s : State) : Result :=
  s.perform (s.commandWord (.qlen sym)) [staleCheck s] (qlenEffect sym s)

/-- Word `k` of the code value (R109). -/
def qbitsEffect (sym : Byte) (k : BitVec 3) (s : State) : State :=
  s.setResult ((symGet s.codeBits sym).extractLsb' (32 * k.toNat) 32)

/-- QBITS sym, k (R109). -/
def execQbits (sym : Byte) (k : BitVec 3) (s : State) : Result :=
  s.perform (s.commandWord (.qbits sym k)) [staleCheck s] (qbitsEffect sym k s)

end Sys2Proof.Machine
end

