-- ==== Sys2Proof/Machine/Control.lean ====
section
/-!
DEFINITION. The control and frequency-table commands NOP, CLEAR and SETFREQ (spec/40_control.md R85 to R89).
-/

namespace Sys2Proof.Machine

/-- NOP (R85): no operation. -/
def execNop (s : State) : Result := s.perform (s.commandWord .nop) [] s

/-- The cleared state (R86): `OUTQ` and `ARG` are unchanged. -/
def clearEffect (s : State) : State :=
  (s.clearFreqs.discardTree.clearCodes.clearPacker.setResult 0#32).endLockout

/-- CLEAR (R86): the cleared state, and the end of the lockout. -/
def execClear (s : State) : Result := s.perform (s.commandWord .clear) [] (clearEffect s)

/-- One entry of the frequency table (R87). -/
def State.enterFreq (s : State) (sym : Byte) (count : BitVec 32) : State :=
  { s with present := symSet s.present sym true, freq := symSet s.freq sym count }

/-- The symbol enters the table with the latched count, and the tree and the codes are discarded (R87). -/
def setfreqEffect (sym : Byte) (s : State) : State :=
  (s.enterFreq sym (s.countOperand (.setfreq sym))).discardTree.clearCodes

/-- SETFREQ sym (R87). -/
def execSetfreq (sym : Byte) (s : State) : Result :=
  s.perform (s.commandWord (.setfreq sym)) [] (setfreqEffect sym s)

end Sys2Proof.Machine
end

