-- ==== Sys2Proof/Machine/Pack.lean ====
section
/-!
DEFINITION. The bit-packer (spec/43_pack.md R120 to R123): the packing step, and the commands ENCODE, PACK and FLUSH.
-/

namespace Sys2Proof.Machine

/-- The packer during one command: the accumulator, how many of its bits are held, and the bytes emitted so far (R38, R120). -/
structure Packer where
  acc : BitVec 8
  cnt : BitVec 3
  out : List Byte
deriving DecidableEq, Repr

/-- `pack_bit(b)` (R120). -/
def packBit (p : Packer) (b : Bool) : Packer :=
  let acc := p.acc ||| ((BitVec.ofBool b).setWidth 8 <<< p.cnt.toNat)
  if p.cnt = 7#3 then ⟨0#8, 0#3, p.out ++ [acc]⟩ else ⟨acc, p.cnt + 1#3, p.out⟩

/-- `pack` of a bit list, first bit first (R120). -/
def packBits (p : Packer) (bits : List Bool) : Packer := bits.foldl packBit p

/-- The packer of a state, nothing emitted yet. -/
def State.packer (s : State) : Packer := ⟨s.pkAcc, s.pkCnt, []⟩

/-- The packer's new contents, and its emitted bytes in the output queue (R49, R120). -/
def State.setPacker (s : State) (p : Packer) : State := { s.emits p.out with pkAcc := p.acc, pkCnt := p.cnt }

/-- `pack(v, len)` on the state (R120). -/
def State.pack (s : State) (bits : List Bool) : State := s.setPacker (packBits s.packer bits)

/-- CODES_STALE, then ABSENT_SYMBOL (R121). -/
def encodeChecks (sym : Byte) (s : State) : List (Bool × ErrCode) :=
  [(!s.codesValid, .codesStale), (!symGet s.codeValid sym, .absentSymbol)]

/-- The symbol's code is packed (R121). -/
def encodeEffect (sym : Byte) (s : State) : State :=
  s.pack (lowBits (symGet s.codeBits sym) (symGet s.codeLen sym).toNat)

/-- ENCODE sym (R121). -/
def execEncode (sym : Byte) (s : State) : Result :=
  s.perform (s.commandWord (.encode sym)) (encodeChecks sym s) (encodeEffect sym s)

/-- ILLEGAL_OPERAND: the length, then the bits (R122, R152). -/
def packChecks (len : BitVec 8) (bits : BitVec 16) : List (Bool × ErrCode) :=
  [(lenBad len, .illegalOperand), (bitsBad len bits, .illegalOperand)]

/-- The literal bit string is packed (R122). -/
def packEffect (len : BitVec 8) (bits : BitVec 16) (s : State) : State := s.pack (lowBits bits len.toNat)

/-- PACK len, bits (R122). -/
def execPack (len : BitVec 8) (bits : BitVec 16) (s : State) : Result :=
  s.perform (s.commandWord (.pack len bits)) (packChecks len bits) (packEffect len bits s)

/-- The trailing partial byte is emitted, if any bit is held (R123). -/
def flushEffect (s : State) : State := if 0 < s.pkCnt.toNat then (s.emits [s.pkAcc]).clearPacker else s

/-- FLUSH (R123). -/
def execFlush (s : State) : Result := s.perform (s.commandWord .flush) [] (flushEffect s)

end Sys2Proof.Machine
end

