-- ==== Sys2Proof/Machine/Unpack.lean ====
section
/-!
DEFINITION. The bit-unpacker (spec/44_unpack.md R140 to R142): the walk step, and the commands DECODE and DECRESET.
-/

namespace Sys2Proof.Machine

/-- The decode walk during one command: the cursor, and the symbols emitted so far (R140). -/
structure Walk where
  cur : NodeIdx
  out : List Byte
deriving DecidableEq, Repr

/-- `walk_bit(b)` in an arena with the given root (R140): left on 0, right on 1; a leaf's symbol is emitted and the walk is back
at the root. -/
def walkBit (arena : Vector Node 511) (root : NodeIdx) (x : Walk) (b : Bool) : Walk :=
  let here := nodeAt arena x.cur.toNat
  let nxt := if b then here.right else here.left
  if (nodeAt arena nxt.toNat).kind = .leaf then ⟨root, x.out ++ [(nodeAt arena nxt.toNat).symbol]⟩ else ⟨nxt, x.out⟩

/-- The walk over a bit list, first bit first (R141). -/
def walkBits (arena : Vector Node 511) (root : NodeIdx) (x : Walk) (bits : List Bool) : Walk :=
  bits.foldl (walkBit arena root) x

/-- The walk's cursor, and its symbols in the output queue (R49, R140). -/
def State.setWalk (s : State) (x : Walk) : State := { s.emits x.out with decCur := x.cur }

/-- The walk over a bit list on the state (R141). -/
def State.walk (s : State) (bits : List Bool) : State :=
  s.setWalk (walkBits s.node (rootIdx s.ncount) ⟨s.decCur, []⟩ bits)

/-- ILLEGAL_OPERAND, NO_TREE, EMPTY_TREE, DEGENERATE_TREE, in this order (R141, R152). -/
def decodeChecks (nbits : BitVec 8) (s : State) : List (Bool × ErrCode) :=
  [(nbitsBad nbits, .illegalOperand), (!s.treeValid, .noTree), (s.ncount == 0#10, .emptyTree),
   (s.nleaf == 1#9, .degenerateTree)]

/-- The walk over the low `nbits` bits of one payload byte, bit 0 first (R141). -/
def decodeEffect (nbits : BitVec 8) (byte : Byte) (s : State) : State := s.walk (lowBits byte nbits.toNat)

/-- DECODE nbits, byte (R141). -/
def execDecode (nbits : BitVec 8) (byte : Byte) (s : State) : Result :=
  s.perform (s.commandWord (.decode nbits byte)) (decodeChecks nbits s) (decodeEffect nbits byte s)

/-- The cursor back at the root, or at 0 without a tree (R142). -/
def decresetEffect (s : State) : State := { s with decCur := if s.treeValid then rootIdx s.ncount else 0#9 }

/-- DECRESET (R142). -/
def execDecreset (s : State) : Result := s.perform (s.commandWord .decreset) [] (decresetEffect s)

end Sys2Proof.Machine
end

