-- ==== Sys2Proof/Machine/Dispatch.lean ====
section
/-! DEFINITION. One arm per command: `execute(w, a)` of spec/30_encoding.md R75, once the word is decoded. -/

namespace Sys2Proof.Machine

def exec (i : Instr) (s : State) : Host.Outcome State Fault Refusal :=
  match i with
  | .nop => Sys2Proof.Machine.execNop s
  | .clear => Sys2Proof.Machine.execClear s
  | .setfreq sym => Sys2Proof.Machine.execSetfreq sym s
  | .build => Sys2Proof.Machine.execBuild s
  | .qleaves => Sys2Proof.Machine.execQleaves s
  | .qroot => Sys2Proof.Machine.execQroot s
  | .qnode idx sel => Sys2Proof.Machine.execQnode idx sel s
  | .extract => Sys2Proof.Machine.execExtract s
  | .qlen sym => Sys2Proof.Machine.execQlen sym s
  | .qbits sym k => Sys2Proof.Machine.execQbits sym k s
  | .encode sym => Sys2Proof.Machine.execEncode sym s
  | .pack len bits => Sys2Proof.Machine.execPack len bits s
  | .flush => Sys2Proof.Machine.execFlush s
  | .decode nbits byte => Sys2Proof.Machine.execDecode nbits byte s
  | .decreset => Sys2Proof.Machine.execDecreset s

end Sys2Proof.Machine
end

