-- ==== Sys2Proof/Machine/Window.lean ====
section
/-!
DEFINITION. The host register window (spec/20_memory.md R40 to R45, R51, R53): which accesses are admitted, what a read returns and
does, what a write does. Reads that are unspecified while the core is busy return free values (spec/70_reset_and_hazards.md R187;
notes/assumptions/3.md).
-/

namespace Sys2Proof.Machine

/-- The offset in the window that an access of `size` bytes at host address `addr` reaches: only an aligned 32-bit access inside
the window is admitted (R45, R52). -/
def windowOffset (addr size : Nat) : Option Nat :=
  if size = 4 ∧ Config.base ≤ addr ∧ addr - Config.base < Config.window ∧ (addr - Config.base) % 4 = 0
  then some (addr - Config.base) else none

/-- Byte `k` of a register as the host bus presents it, at host address `BASE + off + k`: little-endian (R43). -/
def busByte (v : Word) (k : Nat) : Byte := v.extractLsb' (8 * k) 8

/-- A fresh unspecified value is drawn (R187, I2). -/
def State.drawFree (s : State) : State := { s with freeIdx := s.freeIdx + 1 }

/-- A read that returns `v` when the core is not busy and an unspecified value, drawn fresh, while it is (R187). -/
def quietRead (s : State) (v : Word) : Word × State :=
  if s.busy then (Config.freeWord s.freeIdx, s.drawFree) else (v, s)

/-- A read of STATUS (R26, R187): while the core is busy only bit 0, BUSY = 1, is specified. -/
def statusRead (s : State) : Word × State :=
  if s.busy then (Config.freeWord s.freeIdx ||| 1#32, s.drawFree) else (s.statusWord, s)

/-- The oldest byte of the output queue leaves it; of an empty queue nothing does (R29). -/
def State.popOut (s : State) : State := { s with outq := s.outq.drop 1 }

/-- A host read of the register at offset `off`: the value and the state after (R40, R42). CMD and the reserved offsets read 0
(R44); OUTDATA pops (R29); ID, ARG, OUTDATA and OUTLEVEL are defined at every time (R187). -/
def regRead (s : State) (off : Nat) : Word × State :=
  match off with
  | 0x00 => (idWord, s)
  | 0x08 => (s.arg, s)
  | 0x0C => quietRead s s.result
  | 0x10 => statusRead s
  | 0x14 => quietRead s s.errRegister
  | 0x18 => quietRead s s.errWord
  | 0x1C => (s.outData, s.popOut)
  | 0x20 => (s.outLevel, s)
  | 0x24 => quietRead s s.pkStat
  | 0x28 => quietRead s s.decStat
  | _ => (0#32, s)

/-- A host write of `v` at offset `off` (R41): CMD issues a command, ARG takes the value, every other write is ignored (R44). -/
def regWrite (s : State) (off : Nat) (v : Word) : State :=
  match off with
  | 0x04 => s.issue v
  | 0x08 => s.setArg v
  | _ => s

/-- A value read reaches the host. -/
def State.observe (s : State) (v : Word) : State := { s with reads := s.reads ++ [v] }

/-- A host read as an event (R40); one that is not admitted is refused (R45, I1). -/
def hostRead (s : State) (addr size : Nat) : Result :=
  match windowOffset addr size with
  | some off => .next ((regRead s off).2.observe (regRead s off).1)
  | none => .refused .accessNotAdmitted

/-- A host write as an event (R41); one that is not admitted is refused (R45, I1). -/
def hostWrite (s : State) (addr size : Nat) (v : Word) : Result :=
  match windowOffset addr size with
  | some off => .next (regWrite s off v)
  | none => .refused .accessNotAdmitted

end Sys2Proof.Machine
end

