-- ==== Sys2Proof/Machine/Advance.lean ====
section
/-!
DEFINITION. The two agents' steps (spec/00_scope.md R10, spec/20_memory.md R47, R48, R54): the core step, the reset input, and the
next event of the run. Which agent moves next is data in the state (`sched`), so every interleaving of host accesses and core steps
is a run for some `sched` (notes/assumptions/2.md).
-/

namespace Sys2Proof.Machine

/-- `execute(w, a)` (R75): decode the word, raise ILLEGAL_CMD where it spells no command, else run the command. -/
def execute (p : Pending) (s : State) : Result :=
  match decode p.word with
  | .ok i => exec i s
  | .error _ => .next (s.raise .illegalCmd p.word).complete

/-- The core step (R47). Nothing pending: the core is idle (R165). A held emitting command waits (R48). A word locked out is
discarded with no effect (R154). Otherwise it is executed. -/
def coreStep (s : State) : Result :=
  match s.pending with
  | none => .next s
  | some p =>
    if held s p.word then .next s
    else if lockedOut s p.word then .next s.complete
    else execute p s

/-- The reset input (R180): every element of the core's state takes its reset value; what is still scheduled, what the host has
read and the count of free values drawn are not the core's. -/
def State.resetInput (s : State) : State :=
  { State.reset with sched := s.sched, reads := s.reads, freeIdx := s.freeIdx }

/-- One event happens (R54). -/
def happen (e : Event) (s : State) : Result :=
  match e with
  | .core => coreStep s
  | .reset => .next s.resetInput
  | .hostRead addr size => hostRead s addr size
  | .hostWrite addr size v => hostWrite s addr size v

/-- The next event of the run; with none scheduled the core takes its own step (R193). -/
def advance (s : State) : Result :=
  match s.sched with
  | [] => coreStep s
  | e :: rest => happen e (s.setSched rest)

/-- The core moves next: with nothing scheduled it does so anyway, else a core step comes first. -/
def coreNext (sched : List Event) : List Event :=
  match sched with
  | [] => []
  | e :: rest => .core :: e :: rest

end Sys2Proof.Machine
end

