-- ==== Sys2Proof/Machine/Step.lean ====
section
/-!
DEFINITION. The machine's step, and where a command stands for it: in PENDING, with the core moving next (spec/10_state.md R37,
spec/20_memory.md R46, R47).
-/

namespace Sys2Proof.Machine

/-- One step of the machine. -/
def step (s : State) : Host.Outcome State Fault Refusal := advance s

/-- `s` as the issue of a command word leaves it (R46), the core moving next (notes/assumptions/6.md). -/
def State.withFetchWord (s : State) (nbits w : Nat) : State :=
  { s with pending := some ⟨tableWord nbits w, s.arg⟩, sched := coreNext s.sched }

end Sys2Proof.Machine
end

