-- ==== Sys2Proof/Machine/Contract.lean ====
section
/-!
DEFINITION. The host contract (spec/20_memory.md R60 to R68): the container format and the host's encode and decode procedures,
carried out on the core through the same register window and core step the machine uses. The host is software, outside the core
(spec/00_scope.md R4): nothing here is state or a step of the machine (notes/assumptions/7.md).
-/

namespace Sys2Proof.Machine

/-- FormatError, the host's only error (R66), with what stands when it is raised: the bytes already output, which are not withdrawn
(R65), and the core as the commands done so far left it. -/
structure FormatError where
  bytes : List Byte
  core : State
deriving DecidableEq, Repr

/-- A host session: the core, and the bytes the host has read from OUTDATA, oldest first. -/
structure Session where
  core : State
  out : List Byte
deriving DecidableEq, Repr

/-- `DRAIN` (R78): read OUTDATA until it returns 0, at most `k` times. -/
def drainTimes : Nat → Session → Session
  | 0, x => x
  | k + 1, x =>
    let r := regRead x.core 0x1C
    if r.1.getLsbD 8 then drainTimes k ⟨r.2, x.out ++ [r.1.extractLsb' 0 8]⟩ else ⟨r.2, x.out⟩

/-- The queue is drained: one read more than it holds bytes. -/
def drain (x : Session) : Session := drainTimes (x.core.outq.length + 1) x

/-- The core takes its step (R47); a core step never stops the machine. -/
def coreMoves (x : Session) : Session :=
  match coreStep x.core with
  | .next s => ⟨s, x.out⟩
  | .fault _ => x
  | .refused _ => x

/-- `cmd(w)` (R64): write CMD, then wait for BUSY = 0 while draining OUTDATA, and drain it. The run chosen drains before the core
step, so that no command is held. -/
def hostCmd (i : Instr) (x : Session) : Session :=
  drain (coreMoves (drain ⟨regWrite x.core 0x04 (encode i), x.out⟩))

/-- `MemWrite(BASE + 0x08, 4, count)` then `cmd(SETFREQ sym)` (R64, R65). -/
def hostSetFreq (x : Session) (entry : Byte × BitVec 32) : Session :=
  hostCmd (.setfreq entry.1) ⟨regWrite x.core 0x08 entry.2, x.out⟩

/-- STATUS as the host reads it (R40). -/
def hostStatus (x : Session) : Word := (regRead x.core 0x10).1

/-- `le32(c)` (R61): the bytes of a count, least significant first. -/
def le32 (c : BitVec 32) : List Byte := [c.extractLsb' 0 8, c.extractLsb' 8 8, c.extractLsb' 16 8, c.extractLsb' 24 8]

/-- The present symbols of an input with their counts, ascending (R63, R64). -/
def countedSymbols (input : List Byte) : List (Byte × Nat) :=
  symbols.filterMap fun sym => if input.count sym = 0 then none else some (sym, input.count sym)

/-- CLEAR, the frequency table, BUILD (R64, R65). -/
def hostBuild (core : State) (entries : List (Byte × BitVec 32)) : Session :=
  hostCmd .build (entries.foldl hostSetFreq (hostCmd .clear ⟨core, []⟩))

/-- What a host procedure answers: the bytes, `header_size` (R67), and the core afterwards. -/
structure HostResult where
  bytes : List Byte
  headerSize : Nat
  core : State
deriving DecidableEq, Repr

/-- `host_encode(S)` (R64); `none` where the host refuses the input (a count the container cannot hold, I15). -/
def hostEncode (core : State) (input : List Byte) : Option HostResult :=
  let counts := countedSymbols input
  if counts.any (fun e => decide (0xFFFFFFFF < e.2)) then none
  else
    let entries := counts.map fun e => (e.1, BitVec.ofNat 32 e.2)
    let built := hostBuild core entries
    let n := ((hostStatus built).extractLsb' 8 9).toNat
    if n = 0 then some ⟨built.out, 0, built.core⟩
    else
      let extracted := hostCmd .extract built
      let last := ((hostStatus extracted).extractLsb' 4 3).setWidth 8
      let header := [BitVec.ofNat 8 (n - 1)] ++ entries.flatMap (fun e => e.1 :: le32 e.2) ++ (if 1 < n then [last] else [])
      let done := hostCmd .flush (input.foldl (fun x b => hostCmd (.encode b) x) extracted)
      some ⟨header ++ done.out, header.length, done.core⟩

/-- `m` header entries from the front of a byte list, and the rest (R60, R65); none where the list is too short. -/
def takeEntries : Nat → List Byte → Option (List (Byte × BitVec 32) × List Byte)
  | 0, rest => some ([], rest)
  | m + 1, sym :: c0 :: c1 :: c2 :: c3 :: rest =>
    (takeEntries m rest).map fun r => ((sym, c3 ++ c2 ++ c1 ++ c0) :: r.1, r.2)
  | _ + 1, _ => none

/-- The symbols of the entries are strictly ascending (R66). -/
def ascending : List (Byte × BitVec 32) → Bool
  | a :: b :: rest => decide (a.1.toNat < b.1.toNat) && ascending (b :: rest)
  | _ => true

/-- The payload's DECODE commands (R65): every byte whole, but the last for `k` bits where `k` is not 0. -/
def decodePayload (k : BitVec 8) : List Byte → Session → Session
  | [], x => x
  | [b], x => hostCmd (.decode (if k = 0#8 then 8#8 else k) b) x
  | b :: c :: rest, x => decodePayload k (c :: rest) (hostCmd (.decode 8#8 b) x)

/-- `host_decode(B)` (R65), with the empty container (R62), the one-entry container (R68) and FormatError (R66). The two errors of the
entries come before the first command; the three of the last-byte bit count come after BUILD. -/
def hostDecode (core : State) (container : List Byte) : Except FormatError HostResult :=
  match container with
  | [] => .ok ⟨[], 0, core⟩
  | m1 :: body =>
    match takeEntries (m1.toNat + 1) body with
    | none => .error ⟨[], core⟩
    | some (entries, rest) =>
      if ascending entries then
        let built := hostBuild core entries
        match entries with
        | [(sym, count)] => .ok ⟨built.out ++ List.replicate count.toNat sym, 6, built.core⟩
        | _ =>
          match rest with
          | [] => .error ⟨built.out, built.core⟩
          | k :: payload =>
            if 7 < k.toNat then .error ⟨built.out, built.core⟩
            else if payload = [] ∧ k ≠ 0#8 then .error ⟨built.out, built.core⟩
            else
              let done := decodePayload k payload built
              .ok ⟨done.out, 2 + 5 * entries.length, done.core⟩
      else .error ⟨[], core⟩

end Sys2Proof.Machine
end

