-- ==== Sys2Proof/Safety.lean ====
section
/-!
DEFINITION. What a sound state of HUFCORE is, in the terms the claims use: the packer's invariant (spec/10_state.md R38), the queue's
bound (spec/20_memory.md R48), the error registers (R28), the shape of the forest (R35, spec/41_tree.md R96), the cursor (R39) and
the code table (R36). `Inv` joins them. Also the terms the
claims are stated in: an error raised, several commands in a row, the bits a packing command appends, the access rule.
Nothing in the machine refers to this file.
-/

namespace Sys2Proof.Machine

/-- The bits of a byte in stream order, bit 0 first (spec/20_memory.md R59). -/
def byteBits (b : Byte) : List Bool := lowBits b 8

/-- The packed stream a state holds: the bits of the queue's bytes, then the bits the packer holds (R38, R59, R125). -/
def State.streamBits (s : State) : List Bool := s.outq.flatMap byteBits ++ lowBits s.pkAcc s.pkCnt.toNat

/-- The packer's bits at `PK_CNT` and above are 0 (R38). -/
def PackerOk (s : State) : Prop := s.pkAcc.toNat < 2 ^ s.pkCnt.toNat

/-- The queue never holds more than `OQ_DEPTH` bytes (R48). -/
def QueueOk (s : State) : Prop := s.outq.length ≤ Config.oqDepth

/-- `ERRCMD` is 0 while there is no error (R28). -/
def ErrorsOk (s : State) : Prop := s.errCode = .none → s.errWord = 0#32

/-- `p` is an internal node of the forest with child `c`. -/
def ParentOf (f : List Node) (p c : Nat) : Prop :=
  p < f.length ∧ (forestAt f p).kind = .internal ∧
    ((forestAt f p).left.toNat = c ∨ (forestAt f p).right.toNat = c)

/-- The shape of a built forest of `n` leaves (R96 (1) to (5)). -/
structure ForestShape (f : List Node) (n : Nat) : Prop where
  /-- (1) -/
  count : f.length = 2 * n - 1
  /-- at most one leaf per symbol -/
  bound : n ≤ 256
  /-- (2) -/
  leaf : ∀ i, i < n → (forestAt f i).kind = .leaf ∧ (forestAt f i).left = 0#9 ∧ (forestAt f i).right = 0#9 ∧
    (forestAt f i).weight.toNat < 2 ^ 32
  /-- (2) -/
  ascending : ∀ i j, i < j → j < n → (forestAt f i).symbol.toNat < (forestAt f j).symbol.toNat
  /-- (2), (3) -/
  internal : ∀ i, n ≤ i → i < f.length →
    (forestAt f i).kind = .internal ∧ (forestAt f i).symbol = 0#8 ∧ (forestAt f i).left.toNat < i ∧
      (forestAt f i).right.toNat < i ∧ (forestAt f i).left ≠ (forestAt f i).right
  /-- (4) -/
  consumed : ∀ i, i + 1 < f.length → (forestAt f i).consumed = true
  /-- (4) -/
  root : 0 < f.length → (forestAt f (f.length - 1)).consumed = false
  /-- (4) -/
  parent : ∀ c, c + 1 < f.length → ∃ p, ParentOf f p c ∧ ∀ q, ParentOf f q c → q = p
  /-- (5), one level at a time, as numbers: the 40-bit sum does not wrap (R100) -/
  weight : ∀ i, n ≤ i → i < f.length →
    (forestAt f i).weight.toNat =
      (forestAt f (forestAt f i).left.toNat).weight.toNat + (forestAt f (forestAt f i).right.toNat).weight.toNat

/-- The arena and its counters (R34, R35): every entry at `NCOUNT` and above is Empty; without a tree both counters are 0; with
one the entries below `NCOUNT` are a built forest of `NLEAF` leaves. -/
def TreeOk (s : State) : Prop :=
  s.ncount.toNat ≤ 511 ∧
  (∀ i, s.ncount.toNat ≤ i → nodeAt s.node i = Node.empty) ∧
  (s.treeValid = false → s.ncount = 0#10 ∧ s.nleaf = 0#9) ∧
  (s.treeValid = true → ForestShape s.forest s.nleaf.toNat)

/-- The cursor (R39): 0 without a tree, the root where the tree has no internal node, else an internal node of the forest. -/
def CursorOk (s : State) : Prop :=
  (s.treeValid = false → s.decCur = 0#9) ∧
  (s.treeValid = true → s.nleaf.toNat ≤ 1 → s.decCur = 0#9) ∧
  (s.treeValid = true → 2 ≤ s.nleaf.toNat →
    s.decCur.toNat < s.ncount.toNat ∧ (nodeAt s.node s.decCur.toNat).kind = .internal)

/-- The code table (R36): all zero while the codes are not valid; while they are, there is a tree with a node and the table and
`LASTBITS` are what EXTRACT makes of it (R106). -/
def CodesOk (s : State) : Prop :=
  (s.codesValid = false →
    (∀ sym, symGet s.codeValid sym = false ∧ symGet s.codeLen sym = 0#8 ∧ symGet s.codeBits sym = 0#256) ∧
      s.lastBits = 0#3) ∧
  (s.codesValid = true →
    s.treeValid = true ∧ s.ncount ≠ 0#10 ∧
      (⟨s.codeValid, s.codeLen, s.codeBits⟩ : CodeTable) = codeTable s.forest s.nleaf.toNat ∧
      s.lastBits.toNat = totalBits s.forest s.nleaf.toNat ⟨s.codeValid, s.codeLen, s.codeBits⟩ % 8)

/-- A code's bits at its length and above are 0, so bit 255 always is (R36, R107 (4)). -/
def CodeWidthOk (s : State) : Prop :=
  ∀ sym, (symGet s.codeBits sym).toNat < 2 ^ (symGet s.codeLen sym).toNat

/-- The invariant of the machine. -/
structure Inv (s : State) : Prop where
  packer : PackerOk s
  queue : QueueOk s
  errors : ErrorsOk s
  tree : TreeOk s
  cursor : CursorOk s
  codes : CodesOk s

/-- A host that obeys the window's rule (spec/20_memory.md R45): every access still to come is admitted. Such a run never stops. -/
def HostOk (s : State) : Prop :=
  ∀ e ∈ s.sched, match e with
    | .core => True
    | .reset => True
    | .hostRead addr size => (windowOffset addr size).isSome = true
    | .hostWrite addr size _ => (windowOffset addr size).isSome = true

/-- The core moves in the next step, and `rest` is scheduled after it: nothing is scheduled, or a core step comes first
(spec/20_memory.md R54). -/
def CoreMoves (s : State) (rest : List Event) : Prop := (s.sched = [] ∧ rest = []) ∨ s.sched = .core :: rest

/-- The access is an aligned 32-bit access inside the window (spec/20_memory.md R45). -/
def Admitted (addr size : Nat) : Prop := size = 4 ∧ ∃ off, addr = Config.base + off ∧ off < 64 ∧ off % 4 = 0

/-- The command raises the error `e` (spec/60_exceptions.md R153): the state is the one before it, with the error and its command
word recorded if none was, and nothing pending. -/
def Raises (i : Instr) (s : State) (e : ErrCode) : Prop :=
  exec i s = .next
    { s with
      errCode := if s.errCode = .none then e else s.errCode
      errWord := if s.errCode = .none then s.commandWord i else s.errWord
      pending := none }

/-- Commands executed one after the other. -/
def execAll : List Instr → State → Result
  | [], s => .next s
  | i :: rest, s =>
    match exec i s with
    | .next t => execAll rest t
    | .fault r => .fault r
    | .refused r => .refused r

/-- The command packs bits in this state, and which (spec/43_pack.md R121, R122): a symbol with a code, or a literal in range. -/
def Packs (s : State) (i : Instr) (bits : List Bool) : Prop :=
  (∃ sym, i = .encode sym ∧ s.codesValid = true ∧ symGet s.codeValid sym = true ∧
    bits = lowBits (symGet s.codeBits sym) (symGet s.codeLen sym).toNat) ∨
  (∃ len v, i = .pack len v ∧ packOk len v = true ∧ bits = lowBits v len.toNat)

/-- The code of a symbol as a bit list, first bit first (R105, R106). -/
def State.codeOf (s : State) (sym : Byte) : List Bool := lowBits (symGet s.codeBits sym) (symGet s.codeLen sym).toNat

/-- The most bytes a command can emit (spec/43_pack.md R124). -/
def emitBound : Instr → Nat
  | .encode _ => 32
  | .pack _ _ => 2
  | .flush => 1
  | .decode _ _ => 8
  | .nop | .clear | .setfreq _ | .build | .qleaves | .qroot | .qnode _ _ | .extract | .qlen _ | .qbits _ _ | .decreset => 0

/-- DECODE of one single bit (spec/44_unpack.md R141). -/
def decodeBit (b : Bool) : Instr := .decode 1#8 (if b then 1#8 else 0#8)

end Sys2Proof.Machine
end

