-- ==== Sys2Proof/Certificates/Slice0/Obligations.lean ====
section
/-!
DEFINITION. The statements for the provers: what the commands, the window, the errors and the core step of HUFCORE do, and what every
step keeps, each from the numbered rules of spec/. A statement about a built tree in every state takes the shape of the forest
(spec/41_tree.md R96) as a premise; that every step keeps that shape is a statement of its own.
-/

open Sys2Proof Sys2Proof.Machine

/-! ### Encoding -/

/-- R71, R72, R73: decoding a command's encoding gives the command, with every operand at every value. -/
def Obligations.DecodeOfEncodeIsTheCommand : Prop := ∀ i : Instr, decode (encode i) = .ok i

/-- R72, R75: a word decodes to a command only if it is that command's encoding; no bit of a word is dropped. -/
def Obligations.EncodeOfDecodeIsTheWord : Prop := ∀ (w : Word) (i : Instr), decode w = .ok i → encode i = w

/-- R75: the table is complete; every word matches exactly one row and decodes, or matches none and is rejected. -/
def Obligations.EveryWordSpellsOneRowOrIsRejected : Prop :=
  ∀ w : Word,
    ((∃ i, decode w = .ok i) ∧ (opcodeTable.filter fun r => w &&& r.mask == r.value).length = 1) ∨
    ((∃ e, decode w = .error e) ∧ (opcodeTable.filter fun r => w &&& r.mask == r.value) = [])

/-- Words written out from R72 and from the vectors of spec/95_test_vectors.md, one for each family at least. -/
def Obligations.WordsOfTheSpecDecode : Prop :=
  decode 0x00000000#32 = .ok .nop ∧ decode 0x01000000#32 = .ok .clear ∧ decode 0x02FF0000#32 = .ok (.setfreq 0xFF#8) ∧
  decode 0x10000000#32 = .ok .build ∧ decode 0x13020105#32 = .ok (.qnode 0x105#9 2#2) ∧
  decode 0x20000000#32 = .ok .extract ∧ decode 0x22610007#32 = .ok (.qbits 0x61#8 7#3) ∧
  decode 0x30630000#32 = .ok (.encode 0x63#8) ∧ decode 0x310C0ABC#32 = .ok (.pack 12#8 0xABC#16) ∧
  decode 0x32000000#32 = .ok .flush ∧ decode 0x400800E8#32 = .ok (.decode 8#8 0xE8#8) ∧
  decode 0x41000000#32 = .ok .decreset

/-- R76: the unassigned OP values and the words of an assigned OP with a reserved bit set are illegal; an illegal word raises
ILLEGAL_CMD and has no other effect; all zeros is NOP and all ones is illegal. -/
def Obligations.IllegalWordsRaiseIllegalCmd : Prop :=
  (∀ w : Word,
    (0x03 ≤ (opField w).toNat ∧ (opField w).toNat ≤ 0x0F) ∨ (0x14 ≤ (opField w).toNat ∧ (opField w).toNat ≤ 0x1F) ∨
    (0x23 ≤ (opField w).toNat ∧ (opField w).toNat ≤ 0x2F) ∨ (0x33 ≤ (opField w).toNat ∧ (opField w).toNat ≤ 0x3F) ∨
    0x42 ≤ (opField w).toNat → decode w = .error .unassignedOp) ∧
  (∀ r ∈ opcodeTable, ∀ w : Word, opField w = opField r.value → w &&& r.mask ≠ r.value →
    decode w = .error .reservedBit) ∧
  (∀ (s : State) (rest : List Event) (p : Pending) (e : DecodeError), CoreMoves s rest → s.pending = some p →
    decode p.word = .error e → held s p.word = false → s.errCode = .none →
    step s = .next { s with errCode := .illegalCmd, errWord := p.word, pending := none, sched := rest }) ∧
  decode 0x00000000#32 = .ok .nop ∧ decode 0xFFFFFFFF#32 = .error .unassignedOp

/-! ### The core step, the hold and the lockout -/

/-- R47, R75: a pending command that is neither held nor locked out and whose word decodes is executed by the core's step. -/
def Obligations.StepRunsTheDecodedCommand : Prop :=
  ∀ (s : State) (p : Pending) (i : Instr),
    s.pending = some p → decode p.word = .ok i → held s p.word = false → lockedOut s p.word = false →
    (s.sched = [] → step s = exec i s) ∧
    (∀ rest, s.sched = .core :: rest → step s = exec i (s.setSched rest))

/-- R47, R154, R155: while an error is recorded a command that is not held is discarded with no effect, unless it is CLEAR, which is
executed; a CLEAR word with a reserved bit set changes nothing. -/
def Obligations.LockoutDiscardsAllButClear : Prop :=
  ∀ (s : State) (rest : List Event) (p : Pending),
    CoreMoves s rest → s.pending = some p → s.errCode ≠ .none → held s p.word = false →
    (opField p.word ≠ 0x01#8 → step s = .next { s with pending := none, sched := rest }) ∧
    (p.word = 0x01000000#32 → step s = exec .clear (s.setSched rest)) ∧
    (opField p.word = 0x01#8 → p.word ≠ 0x01000000#32 → step s = .next { s with pending := none, sched := rest })

/-- R47, R48, R165: an emitting command waits, the core's state unchanged, while the queue holds more than `OQ_DEPTH` − 32 bytes; every
other pending command is taken by the core's step, which empties PENDING; with nothing pending the core stays as it is. That a core
which waits or is idle has a step, which changes nothing, is the model's choice (notes/assumptions/2.md). That the hold comes before the
lockout and before decoding, so that a word which would be discarded or raise ILLEGAL_CMD waits too, is deduced
(notes/assumptions/9.md). -/
def Obligations.EmittingCommandsWaitForRoom : Prop :=
  (∀ (s : State) (rest : List Event) (p : Pending), CoreMoves s rest → s.pending = some p →
    (opField p.word ∈ [0x30#8, 0x31#8, 0x32#8, 0x40#8] → Config.oqDepth - 32 < s.outq.length →
      step s = .next { s with sched := rest }) ∧
    (opField p.word ∉ [0x30#8, 0x31#8, 0x32#8, 0x40#8] ∨ s.outq.length ≤ Config.oqDepth - 32 →
      ∃ t, step s = .next t ∧ t.pending = none ∧ t.sched = rest)) ∧
  (∀ (s : State) (rest : List Event), CoreMoves s rest → s.pending = none → step s = .next { s with sched := rest })

/-- R152, R153, R155: a command other than CLEAR that changes `ERR_CODE` found it 0, records the pending word, and changes nothing
else but PENDING; while an error is recorded no command other than CLEAR changes the error registers. -/
def Obligations.ErrorsArePrecise : Prop :=
  ∀ (s t : State) (p : Pending) (i : Instr), s.pending = some p → i ≠ .clear → exec i s = .next t →
    (t.errCode ≠ s.errCode →
      s.errCode = .none ∧ t = { s with errCode := t.errCode, errWord := p.word, pending := none }) ∧
    (s.errCode ≠ .none → t.errCode = s.errCode ∧ t.errWord = s.errWord)

/-- R153, R154, R155: the first error is kept; the only way out of it is the reset input or the core's execution of the word of
CLEAR. -/
def Obligations.OnlyClearOrResetEndsTheLockout : Prop :=
  ∀ s t : State, s.errCode ≠ .none → step s = .next t → (t.errCode ≠ s.errCode ∨ t.errWord ≠ s.errWord) →
    (∃ rest, s.sched = .reset :: rest) ∨
    ((s.sched = [] ∨ ∃ rest, s.sched = .core :: rest) ∧ ∃ a, s.pending = some ⟨0x01000000#32, a⟩)

/-- R45, R166: a step is refused exactly when the next event is a host access that is not an aligned 32-bit access inside the
window; nothing else ever refuses. That every other size and every address below `BASE` is refused too is deduced
(notes/assumptions/13.md). -/
def Obligations.OnlyUnadmittedAccessesAreRefused : Prop :=
  ∀ (s : State) (r : Refusal), step s = .refused r ↔
    r = .accessNotAdmitted ∧
    ∃ addr size rest, ¬ Admitted addr size ∧
      (s.sched = .hostRead addr size :: rest ∨ ∃ v, s.sched = .hostWrite addr size v :: rest)

/-- R45, R166: the run of a host that makes admitted accesses only never stops, from every state. That an idle core, or one that holds
its command, answers a next state where the spec enables no step is the model's choice (notes/assumptions/2.md). -/
def Obligations.AdmittedRunsNeverStop : Prop :=
  ∀ s : State, HostOk s → ∃ t, step s = .next t ∧ HostOk t

/-! ### Reset -/

/-- R86, R181: the value of every element of state after reset, and of every register read; CLEAR then changes nothing. -/
def Obligations.ResetGivesTheResetValues : Prop :=
  let r := State.reset
  r.arg = 0#32 ∧ (regRead r 0x00).1 = 0x48554601#32 ∧ r.result = 0#32 ∧ (regRead r 0x10).1 = 0#32 ∧
  r.errCode.code = 0#4 ∧ (regRead r 0x14).1 = 0#32 ∧ r.errWord = 0#32 ∧ (regRead r 0x18).1 = 0#32 ∧
  r.outq = [] ∧ (regRead r 0x1C).1 = 0#32 ∧ (regRead r 0x20).1 = 0#32 ∧
  r.pkAcc = 0#8 ∧ r.pkCnt = 0#3 ∧ (regRead r 0x24).1 = 0#32 ∧
  r.decCur = 0#9 ∧ (regRead r 0x28).1 = 0#32 ∧ r.atRoot = false ∧
  (∀ sym, symGet r.present sym = false ∧ symGet r.freq sym = 0#32) ∧
  (∀ i, nodeAt r.node i = Node.empty) ∧
  r.ncount = 0#10 ∧ r.nleaf = 0#9 ∧ r.treeValid = false ∧
  (∀ sym, symGet r.codeValid sym = false ∧ symGet r.codeLen sym = 0#8 ∧ symGet r.codeBits sym = 0#256) ∧
  r.codesValid = false ∧ r.lastBits = 0#3 ∧ r.pending = none ∧ exec .clear r = .next r

/-- R180: the reset input gives the state after CLEAR with, in addition, ARG = 0, PENDING and OUTQ empty, which is the reset state of
the core; a pending command is discarded without being executed. That `sched`, `reads` and `freeIdx` stay is the model's choice
(notes/assumptions/2.md, notes/assumptions/3.md, notes/assumptions/14.md). -/
def Obligations.ResetInputGivesTheResetState : Prop :=
  ∀ (s : State) (rest : List Event), s.sched = .reset :: rest →
    step s = .next { State.reset with sched := rest, reads := s.reads, freeIdx := s.freeIdx } ∧
    ∃ c, exec .clear s = .next c ∧ step s = .next { c with arg := 0#32, pending := none, outq := [], sched := rest }

/-- The invariant of the machine holds after reset. -/
def Obligations.ResetMeetsTheInvariant : Prop := Inv State.reset

/-! ### The register window -/

/-- R26, R187: every field of STATUS; while the core is busy only BUSY is defined, and every other bit is that of an unspecified value
drawn for the read, of which nothing is known; no field is writable; 0 after reset. That the reserved bits too are unspecified while
busy is deduced from R187's "bits [31:1]" (notes/assumptions/3.md). -/
def Obligations.StatusShowsItsFields : Prop :=
  (∀ s : State, (regRead s 0x10).1.getLsbD 0 = s.pending.isSome) ∧
  (∀ s : State, s.pending = none →
    let w := (regRead s 0x10).1
    w.getLsbD 1 = s.treeValid ∧ w.getLsbD 2 = s.codesValid ∧ w.getLsbD 3 = decide (s.errCode ≠ .none) ∧
    w.extractLsb' 4 3 = s.lastBits ∧ w.getLsbD 7 = false ∧ w.extractLsb' 8 9 = s.nleaf ∧
    w.extractLsb' 17 10 = s.ncount ∧ w.extractLsb' 27 5 = 0#5) ∧
  (∀ s : State, s.pending ≠ none →
    (∀ k, 0 < k → (regRead s 0x10).1.getLsbD k = (Config.freeWord s.freeIdx).getLsbD k) ∧
    (regRead s 0x10).2 = { s with freeIdx := s.freeIdx + 1 }) ∧
  (∀ (s : State) (v : Word), regWrite s 0x10 v = s) ∧ (regRead State.reset 0x10).1 = 0#32

/-- R22 to R28, R30 to R32, R40: what a read of each register but OUTDATA returns while nothing is pending, and that it changes nothing;
ERR with the numbers of R150. OUTLEVEL is the queue's length modulo 2^32 (notes/assumptions/8.md). -/
def Obligations.IdleReadsReturnTheRegisters : Prop :=
  ∀ s : State, s.pending = none →
    regRead s 0x00 = (0x48554601#32, s) ∧ regRead s 0x04 = (0#32, s) ∧ regRead s 0x08 = (s.arg, s) ∧
    regRead s 0x0C = (s.result, s) ∧
    (regRead s 0x10).1.toNat =
      2 * s.treeValid.toNat + 4 * s.codesValid.toNat + (if s.errCode = .none then 0 else 8) + 16 * s.lastBits.toNat +
        256 * s.nleaf.toNat + 131072 * s.ncount.toNat ∧
    (regRead s 0x10).2 = s ∧
    (∀ e ∈ [(ErrCode.none, 0#32), (.emptyTree, 1#32), (.noTree, 2#32), (.codesStale, 3#32), (.absentSymbol, 4#32),
        (.degenerateTree, 5#32), (.illegalCmd, 6#32), (.illegalOperand, 7#32), (.overrun, 8#32)],
      s.errCode = e.1 → regRead s 0x14 = (e.2, s)) ∧
    regRead s 0x18 = (s.errWord, s) ∧
    regRead s 0x20 = (BitVec.ofNat 32 s.outq.length, s) ∧
    (regRead s 0x24).1.extractLsb' 0 8 = s.pkAcc ∧ (regRead s 0x24).1.extractLsb' 8 3 = s.pkCnt ∧
    (regRead s 0x24).1.extractLsb' 11 21 = 0#21 ∧ (regRead s 0x24).2 = s ∧
    (regRead s 0x28).1.extractLsb' 0 9 = s.decCur ∧ (regRead s 0x28).1.extractLsb' 9 7 = 0#7 ∧
    ((regRead s 0x28).1.getLsbD 16 = true ↔
      s.treeValid = true ∧ 0 < s.ncount.toNat ∧ s.decCur.toNat = s.ncount.toNat - 1) ∧
    (regRead s 0x28).1.extractLsb' 17 15 = 0#15 ∧ (regRead s 0x28).2 = s

/-- R29: a read of OUTDATA returns bit 8 set and the oldest byte, and removes it; of an empty queue it returns 0 and changes nothing;
bits 31 to 9 are 0; busy or not. -/
def Obligations.OutdataReadsAndPops : Prop :=
  (∀ (s : State) (b : Byte) (rest : List Byte), s.outq = b :: rest →
    (regRead s 0x1C).1.getLsbD 8 = true ∧ (regRead s 0x1C).1.extractLsb' 0 8 = b ∧
    (regRead s 0x1C).1.extractLsb' 9 23 = 0#23 ∧ (regRead s 0x1C).2 = { s with outq := rest }) ∧
  (∀ s : State, s.outq = [] → regRead s 0x1C = (0#32, s))

/-- R187: while a command is pending, ID, ARG and OUTLEVEL read as ever, STATUS shows BUSY, its other bits are unspecified, and RESULT,
ERR, ERRCMD, PKSTAT and DECSTAT return an unspecified value, drawn fresh. The values of `Config.freeWord` are free: the statement holds
whatever they are (notes/assumptions/3.md). OUTLEVEL is the queue's length modulo 2^32 (notes/assumptions/8.md). -/
def Obligations.BusyReadsAreUnspecified : Prop :=
  ∀ (s : State) (p : Pending), s.pending = some p →
    regRead s 0x00 = (0x48554601#32, s) ∧ regRead s 0x08 = (s.arg, s) ∧
    regRead s 0x20 = (BitVec.ofNat 32 s.outq.length, s) ∧ (regRead s 0x10).1.getLsbD 0 = true ∧
    (∀ k, 0 < k → (regRead s 0x10).1.getLsbD k = (Config.freeWord s.freeIdx).getLsbD k) ∧
    (regRead s 0x10).2 = { s with freeIdx := s.freeIdx + 1 } ∧
    ∀ off ∈ [0x0C, 0x14, 0x18, 0x24, 0x28],
      regRead s off = (Config.freeWord s.freeIdx, { s with freeIdx := s.freeIdx + 1 })

/-- R44: writes to read-only registers and to the reserved offsets are ignored; reserved offsets and CMD read 0. That they read 0 while
a command is pending too is deduced (notes/assumptions/3.md). -/
def Obligations.IgnoredWritesAndReservedReads : Prop :=
  ∀ s : State,
    (∀ v : Word, ∀ off ∈ [0x00, 0x0C, 0x10, 0x14, 0x18, 0x1C, 0x20, 0x24, 0x28, 0x2C, 0x30, 0x34, 0x38, 0x3C],
      regWrite s off v = s) ∧
    (∀ off ∈ [0x2C, 0x30, 0x34, 0x38, 0x3C], regRead s off = (0#32, s)) ∧ regRead s 0x04 = (0#32, s)

/-- R46: a write to CMD with nothing pending latches the word and ARG; with a command pending it is dropped, and recorded as OVERRUN
if no error was; BUSY is 1 after it either way. -/
def Obligations.CmdWriteIssuesOrOverruns : Prop :=
  ∀ (s : State) (v : Word),
    (s.pending = none → regWrite s 0x04 v = { s with pending := some ⟨v, s.arg⟩ }) ∧
    (s.pending ≠ none → s.errCode = .none → regWrite s 0x04 v = { s with errCode := .overrun, errWord := v }) ∧
    (s.pending ≠ none → s.errCode ≠ .none → regWrite s 0x04 v = s) ∧
    (regWrite s 0x04 v).busy = true

/-- R23, R41, R57, R185: a write to ARG sets ARG alone; the operand of a command already issued stays the value ARG had at its
issue, which SETFREQ then enters. -/
def Obligations.ArgWritesDoNotReachAnIssuedCommand : Prop :=
  (∀ (s : State) (v : Word), regWrite s 0x08 v = { s with arg := v }) ∧
  (∀ (s : State) (sym : Byte) (v w : Word), s.pending = none →
    ∃ t, exec (.setfreq sym) (regWrite (regWrite s 0x04 w) 0x08 v) = .next t ∧ symGet t.freq sym = s.arg ∧ t.arg = v)

/-- R40, R41, R43, R52: an admitted access happens: a read returns its register's value to the host, a write has its effect. -/
def Obligations.AdmittedAccessesReachTheirRegister : Prop :=
  ∀ (s : State) (off : Nat) (rest : List Event), off < 64 → off % 4 = 0 →
    (s.sched = .hostRead (Config.base + off) 4 :: rest →
      step s = .next
        { (regRead (s.setSched rest) off).2 with reads := s.reads ++ [(regRead (s.setSched rest) off).1] }) ∧
    (∀ v, s.sched = .hostWrite (Config.base + off) 4 v :: rest →
      step s = .next (regWrite (s.setSched rest) off v))

/-! ### NOP, CLEAR, SETFREQ -/

/-- R85: NOP has one word; executed or discarded, it empties PENDING and changes nothing else; written while busy it overruns. -/
def Obligations.NopDoesNothing : Prop :=
  (∀ w : Word, opField w = 0x00#8 → decode w = if w = 0x00000000#32 then .ok .nop else .error .reservedBit) ∧
  (∀ s : State, exec .nop s = .next { s with pending := none }) ∧
  (∀ (s : State) (rest : List Event) (a : Word), CoreMoves s rest → s.pending = some ⟨0x00000000#32, a⟩ →
    step s = .next { s with pending := none, sched := rest }) ∧
  (∀ (s : State) (p : Pending), s.pending = some p → s.errCode = .none →
    regWrite s 0x04 0x00000000#32 = { s with errCode := .overrun, errWord := 0x00000000#32 })

/-- R86: CLEAR empties the frequency table, the forest, the code table, the packer, the cursor, RESULT and the error registers, and
leaves OUTQ and ARG; it runs during lockout; with a reserved bit set it then changes nothing. -/
def Obligations.ClearGivesTheClearedState : Prop :=
  (∀ w : Word, opField w = 0x01#8 → decode w = if w = 0x01000000#32 then .ok .clear else .error .reservedBit) ∧
  (∀ s : State, ∃ t, exec .clear s = .next t ∧
    (∀ sym, symGet t.present sym = false ∧ symGet t.freq sym = 0#32) ∧ (∀ i, nodeAt t.node i = Node.empty) ∧
    (∀ sym, symGet t.codeValid sym = false ∧ symGet t.codeLen sym = 0#8 ∧ symGet t.codeBits sym = 0#256) ∧
    t = { s with
      present := t.present, freq := t.freq, node := t.node, ncount := 0#10, nleaf := 0#9, treeValid := false,
      decCur := 0#9, codeValid := t.codeValid, codeLen := t.codeLen, codeBits := t.codeBits, lastBits := 0#3,
      codesValid := false, pkAcc := 0#8, pkCnt := 0#3, result := 0#32, errCode := .none, errWord := 0#32,
      pending := none }) ∧
  (∀ (s : State) (rest : List Event) (a : Word), CoreMoves s rest → s.pending = some ⟨0x01000000#32, a⟩ →
    step s = exec .clear (s.setSched rest)) ∧
  (∀ (s : State) (rest : List Event) (p : Pending), CoreMoves s rest → s.pending = some p → opField p.word = 0x01#8 →
    p.word ≠ 0x01000000#32 → s.errCode ≠ .none → step s = .next { s with pending := none, sched := rest })

/-- R87: SETFREQ enters the symbol with the latched operand, a count of 0 too, in place of an earlier count; the tree, the cursor
and the codes are discarded; nothing else changes. -/
def Obligations.SetfreqEntersTheCount : Prop :=
  (∀ w : Word, opField w = 0x02#8 →
    decode w = if immField w = 0#16 then .ok (.setfreq (aField w)) else .error .reservedBit) ∧
  ∀ (s : State) (p : Pending) (sym : Byte), s.pending = some p →
    ∃ t, exec (.setfreq sym) s = .next t ∧
      symGet t.present sym = true ∧ symGet t.freq sym = p.arg ∧
      (∀ b, b ≠ sym → symGet t.present b = symGet s.present b ∧ symGet t.freq b = symGet s.freq b) ∧
      (∀ i, nodeAt t.node i = Node.empty) ∧
      (∀ b, symGet t.codeValid b = false ∧ symGet t.codeLen b = 0#8 ∧ symGet t.codeBits b = 0#256) ∧
      t = { s with
        present := t.present, freq := t.freq, node := t.node, ncount := 0#10, nleaf := 0#9, treeValid := false,
        decCur := 0#9, codeValid := t.codeValid, codeLen := t.codeLen, codeBits := t.codeBits, lastBits := 0#3,
        codesValid := false, pending := none }

/-! ### The tree constructor -/

/-- R90, R91: the comparator is a strict total order on entries of different index, with the rule's consequences: unconsumed before
consumed; then lighter first; at equal weight smaller symkey first, so an internal node before a leaf of symbol 1 to 255; at equal
weight and symkey the lower index first. -/
def Obligations.ComparatorIsAStrictTotalOrder : Prop :=
  (∀ a : Nat × Node, nodeLess a a = false) ∧
  (∀ a b c : Nat × Node, nodeLess a b = true → nodeLess b c = true → nodeLess a c = true) ∧
  (∀ a b : Nat × Node, a.1 ≠ b.1 → nodeLess a b = !nodeLess b a) ∧
  (∀ a b : Nat × Node, a.2.consumed = false → b.2.consumed = true → nodeLess a b = true) ∧
  (∀ a b : Nat × Node, a.2.consumed = b.2.consumed → a.2.weight.toNat < b.2.weight.toNat → nodeLess a b = true) ∧
  (∀ a b : Nat × Node, a.2.consumed = b.2.consumed → a.2.weight = b.2.weight →
    a.2.kind = .internal → b.2.kind = .leaf → b.2.symbol ≠ 0#8 → nodeLess a b = true) ∧
  (∀ a b : Nat × Node, a.2.consumed = b.2.consumed → a.2.weight = b.2.weight → a.2.kind = .leaf → b.2.kind = .leaf →
    a.2.symbol.toNat < b.2.symbol.toNat → nodeLess a b = true) ∧
  (∀ a b : Nat × Node, a.2.consumed = b.2.consumed → a.2.weight = b.2.weight → symkey a.2 = symkey b.2 →
    a.1 < b.1 → nodeLess a b = true)

/-- R92: the scan gives the index of the one node less than every other, and an unconsumed one while there is any. -/
def Obligations.ScanFindsTheLeastNode : Prop :=
  ∀ f : List Node, f ≠ [] →
    argminUnconsumed f < f.length ∧
    (∀ j, j < f.length → j ≠ argminUnconsumed f →
      nodeLess (argminUnconsumed f, forestAt f (argminUnconsumed f)) (j, forestAt f j) = true) ∧
    ((∃ j, j < f.length ∧ (forestAt f j).consumed = false) → (forestAt f (argminUnconsumed f)).consumed = false)

/-- R93, R95: BUILD completes from every state, an empty table included: one leaf per present symbol in ascending order with its
count as weight, 2n − 1 nodes, the tree valid, the cursor at the root, the codes cleared, nothing else changed. -/
def Obligations.BuildInsertsTheTableAndRootsTheCursor : Prop :=
  (∀ w : Word, opField w = 0x10#8 → decode w = if w = 0x10000000#32 then .ok .build else .error .reservedBit) ∧
  ∀ s : State, ∃ t, exec .build s = .next t ∧
    t.nleaf.toNat = (symbols.filter (symGet s.present)).length ∧ t.ncount.toNat = 2 * t.nleaf.toNat - 1 ∧
    (List.range t.nleaf.toNat).map (fun i => ((nodeAt t.node i).kind, (nodeAt t.node i).symbol, (nodeAt t.node i).weight)) =
      (symbols.filter (symGet s.present)).map (fun sym => (NodeKind.leaf, sym, (symGet s.freq sym).setWidth 40)) ∧
    t.decCur.toNat = t.ncount.toNat - 1 ∧
    (∀ b, symGet t.codeValid b = false ∧ symGet t.codeLen b = 0#8 ∧ symGet t.codeBits b = 0#256) ∧
    t = { s with
      node := t.node, ncount := t.ncount, nleaf := t.nleaf, treeValid := true, decCur := t.decCur,
      codeValid := t.codeValid, codeLen := t.codeLen, codeBits := t.codeBits, lastBits := 0#3, codesValid := false,
      pending := none }

/-- R94, R96 (1) to (5), R100 (1): the forest BUILD makes has the shape of a built forest, and every entry above it is Empty. -/
def Obligations.BuildMakesAForest : Prop :=
  ∀ s t : State, exec .build s = .next t → ForestShape t.forest t.nleaf.toNat ∧ TreeOk t

/-- R92, R94: each internal node `i` joins the two least nodes not yet joined when it was made, the lesser on the left: every
other node below `i` that no node up to `i` is the parent of comes after both by (weight, symkey, index). -/
def Obligations.BuildJoinsTheTwoLeastNodes : Prop :=
  ∀ s t : State, exec .build s = .next t → ∀ i, t.nleaf.toNat ≤ i → i < t.ncount.toNat →
    let key := fun k => [(forestAt t.forest k).weight.toNat, (symkey (forestAt t.forest k)).toNat, k]
    let l := (forestAt t.forest i).left.toNat
    let r := (forestAt t.forest i).right.toNat
    lexLt (key l) (key r) = true ∧
    ∀ k, k < i → k ≠ l → k ≠ r → (∀ p, p ≤ i → ¬ ParentOf t.forest p k) → lexLt (key r) (key k) = true

/-- R96 (6): the weights of the internal nodes do not decrease in creation order. -/
def Obligations.InternalWeightsDoNotDecrease : Prop :=
  ∀ s t : State, exec .build s = .next t → ∀ i j, t.nleaf.toNat ≤ i → i ≤ j → j < t.ncount.toNat →
    (forestAt t.forest i).weight.toNat ≤ (forestAt t.forest j).weight.toNat

/-- R97: QLEAVES gives the leaf count minus one; NO_TREE, then EMPTY_TREE; RESULT alone is written. -/
def Obligations.QleavesReportsLeavesMinusOne : Prop :=
  (∀ w : Word, opField w = 0x11#8 → decode w = if w = 0x11000000#32 then .ok .qleaves else .error .reservedBit) ∧
  ∀ s : State,
    (s.treeValid = false → Raises .qleaves s .noTree) ∧
    (s.treeValid = true → s.nleaf.toNat = 0 → Raises .qleaves s .emptyTree) ∧
    (s.treeValid = true → s.nleaf.toNat ≠ 0 →
      exec .qleaves s = .next { s with result := BitVec.ofNat 32 (s.nleaf.toNat - 1), pending := none })

/-- R98: QROOT gives the root's index; NO_TREE, then EMPTY_TREE; RESULT alone is written. -/
def Obligations.QrootReportsTheRootIndex : Prop :=
  (∀ w : Word, opField w = 0x12#8 → decode w = if w = 0x12000000#32 then .ok .qroot else .error .reservedBit) ∧
  ∀ s : State,
    (s.treeValid = false → Raises .qroot s .noTree) ∧
    (s.treeValid = true → s.ncount.toNat = 0 → Raises .qroot s .emptyTree) ∧
    (s.treeValid = true → s.ncount.toNat ≠ 0 →
      exec .qroot s = .next { s with result := BitVec.ofNat 32 (s.ncount.toNat - 1), pending := none })

/-- R99: QNODE gives the field group `sel` of an entry of the forest, its kind by the numbers of R34; its errors in order; RESULT alone
is written. -/
def Obligations.QnodeReportsTheFieldGroup : Prop :=
  (∀ w : Word, opField w = 0x13#8 → decode w =
    if (aField w).toNat < 4 ∧ (immField w).toNat < 512 then .ok (.qnode (w.extractLsb' 0 9) (w.extractLsb' 16 2))
    else .error .reservedBit) ∧
  ∀ (s : State) (idx : BitVec 9) (sel : BitVec 2),
    (sel = 3#2 → Raises (.qnode idx sel) s .illegalOperand) ∧
    (sel ≠ 3#2 → s.treeValid = false → Raises (.qnode idx sel) s .noTree) ∧
    (sel ≠ 3#2 → s.treeValid = true → s.ncount.toNat ≤ idx.toNat → Raises (.qnode idx sel) s .illegalOperand) ∧
    (sel ≠ 3#2 → s.treeValid = true → idx.toNat < s.ncount.toNat →
      ∃ r : Word, exec (.qnode idx sel) s = .next { s with result := r, pending := none } ∧
        let n := nodeAt s.node idx.toNat
        (sel = 0#2 → r.extractLsb' 0 9 = n.left ∧ r.extractLsb' 9 9 = n.right ∧ r.extractLsb' 18 8 = n.symbol ∧
          r.getLsbD 26 = n.consumed ∧ r.extractLsb' 29 3 = 0#3 ∧ (n.kind = .empty → r.extractLsb' 27 2 = 0#2) ∧
          (n.kind = .leaf → r.extractLsb' 27 2 = 1#2) ∧ (n.kind = .internal → r.extractLsb' 27 2 = 2#2)) ∧
        (sel = 1#2 → r.toNat = n.weight.toNat % 2 ^ 32) ∧
        (sel = 2#2 → r.toNat = n.weight.toNat / 2 ^ 32))

/-! ### The code-table extractor -/

/-- R105, R106: on a built forest EXTRACT gives every leaf's symbol its path's length and value, every other symbol nothing, and
LASTBITS; NO_TREE, then EMPTY_TREE; nothing else changes. -/
def Obligations.ExtractFillsTheCodeTable : Prop :=
  (∀ w : Word, opField w = 0x20#8 → decode w = if w = 0x20000000#32 then .ok .extract else .error .reservedBit) ∧
  ∀ s : State,
    (s.treeValid = false → Raises .extract s .noTree) ∧
    (s.treeValid = true → s.ncount.toNat = 0 → Raises .extract s .emptyTree) ∧
    (s.treeValid = true → s.ncount.toNat ≠ 0 → ForestShape s.forest s.nleaf.toNat →
      ∃ t, exec .extract s = .next t ∧
        (∀ i, i < s.nleaf.toNat →
          symGet t.codeValid (forestAt s.forest i).symbol = true ∧
          (symGet t.codeLen (forestAt s.forest i).symbol).toNat = (codePath s.forest i).length ∧
          (symGet t.codeBits (forestAt s.forest i).symbol).toNat = bitsOf (codePath s.forest i)) ∧
        (∀ b, (∀ i, i < s.nleaf.toNat → (forestAt s.forest i).symbol ≠ b) →
          symGet t.codeValid b = false ∧ symGet t.codeLen b = 0#8 ∧ symGet t.codeBits b = 0#256) ∧
        t.lastBits.toNat = ((List.range s.nleaf.toNat).map fun i =>
          (forestAt s.forest i).weight.toNat * (codePath s.forest i).length).sum % 8 ∧
        t = { s with
          codeValid := t.codeValid, codeLen := t.codeLen, codeBits := t.codeBits, lastBits := t.lastBits,
          codesValid := true, pending := none })

/-- R105: the path of the root is empty, and the path of a child is its parent's followed by 0 for left and 1 for right. -/
def Obligations.PathsDescendFromTheRoot : Prop :=
  ∀ (f : List Node) (n : Nat), ForestShape f n →
    codePath f (f.length - 1) = [] ∧
    ∀ p, n ≤ p → p < f.length →
      codePath f (forestAt f p).left.toNat = codePath f p ++ [false] ∧
      codePath f (forestAt f p).right.toNat = codePath f p ++ [true]

/-- R107 (2): no leaf's path is a prefix of another's. -/
def Obligations.CodesArePrefixFree : Prop :=
  ∀ (f : List Node) (n : Nat), ForestShape f n → ∀ i j, i < n → j < n → i ≠ j →
    ¬ codePath f i <+: codePath f j

/-- R100 (2), R107 (3): the codes fill the tree: the sum over the leaves of 2^(−length) is 1, here times 2^255, for every forest with
a leaf; a code has at most n − 1 bits, and with two leaves or more at least one. -/
def Obligations.CodeLengthsFillTheTree : Prop :=
  ∀ (f : List Node) (n : Nat), ForestShape f n → 1 ≤ n →
    ((List.range n).map fun i => 2 ^ (255 - (codePath f i).length)).sum = 2 ^ 255 ∧
    ∀ i, i < n → (codePath f i).length ≤ n - 1 ∧ (2 ≤ n → 1 ≤ (codePath f i).length)

/-- R108: QLEN gives presence and length, 0 for an absent symbol; CODES_STALE; RESULT alone is written. -/
def Obligations.QlenReportsTheLength : Prop :=
  (∀ w : Word, opField w = 0x21#8 →
    decode w = if immField w = 0#16 then .ok (.qlen (aField w)) else .error .reservedBit) ∧
  ∀ (s : State) (sym : Byte),
    (s.codesValid = false → Raises (.qlen sym) s .codesStale) ∧
    (s.codesValid = true →
      ∃ r : Word, exec (.qlen sym) s = .next { s with result := r, pending := none } ∧
        r.getLsbD 31 = symGet s.codeValid sym ∧ r.extractLsb' 0 31 = (symGet s.codeLen sym).setWidth 31) ∧
    (s.codesValid = true → CodesOk s → symGet s.codeValid sym = false →
      exec (.qlen sym) s = .next { s with result := 0#32, pending := none })

/-- R109: QBITS gives word `k` of the code value; CODES_STALE; RESULT alone is written; for every `sym` and `k`. -/
def Obligations.QbitsReportsAWordOfTheCode : Prop :=
  (∀ w : Word, opField w = 0x22#8 → decode w =
    if (immField w).toNat < 8 then .ok (.qbits (aField w) (w.extractLsb' 0 3)) else .error .reservedBit) ∧
  ∀ (s : State) (sym : Byte) (k : BitVec 3),
    (s.codesValid = false → Raises (.qbits sym k) s .codesStale) ∧
    (s.codesValid = true →
      ∃ r : Word, exec (.qbits sym k) s = .next { s with result := r, pending := none } ∧
        r.toNat = (symGet s.codeBits sym).toNat / 2 ^ (32 * k.toNat) % 2 ^ 32)

/-! ### The bit-packer -/

/-- R120, R121: ENCODE appends the symbol's code to the packed stream, first bit first, and changes the packer and the queue alone;
CODES_STALE, then ABSENT_SYMBOL, and then nothing is packed. -/
def Obligations.EncodeAppendsTheCode : Prop :=
  (∀ w : Word, opField w = 0x30#8 →
    decode w = if immField w = 0#16 then .ok (.encode (aField w)) else .error .reservedBit) ∧
  ∀ (s : State) (sym : Byte),
    (s.codesValid = false → Raises (.encode sym) s .codesStale) ∧
    (s.codesValid = true → symGet s.codeValid sym = false → Raises (.encode sym) s .absentSymbol) ∧
    (s.codesValid = true → symGet s.codeValid sym = true →
      ∃ t bytes, exec (.encode sym) s = .next t ∧
        t = { s with pkAcc := t.pkAcc, pkCnt := t.pkCnt, outq := s.outq ++ bytes, pending := none } ∧
        (PackerOk s → PackerOk t ∧
          t.streamBits = s.streamBits ++ (List.range (symGet s.codeLen sym).toNat).map (symGet s.codeBits sym).getLsbD))

/-- R120, R122: PACK appends the low `len` bits of its operand, bit 0 first, and changes the packer and the queue alone;
ILLEGAL_OPERAND for more than 16 bits or a set bit at `len` or above. -/
def Obligations.PackAppendsItsBits : Prop :=
  (∀ w : Word, opField w = 0x31#8 → decode w = .ok (.pack (aField w) (immField w))) ∧
  ∀ (s : State) (len : BitVec 8) (bits : BitVec 16),
    (16 < len.toNat → Raises (.pack len bits) s .illegalOperand) ∧
    (len.toNat ≤ 16 → 2 ^ len.toNat ≤ bits.toNat → Raises (.pack len bits) s .illegalOperand) ∧
    (len.toNat ≤ 16 → bits.toNat < 2 ^ len.toNat →
      ∃ t bytes, exec (.pack len bits) s = .next t ∧
        t = { s with pkAcc := t.pkAcc, pkCnt := t.pkCnt, outq := s.outq ++ bytes, pending := none } ∧
        (PackerOk s → PackerOk t ∧ t.streamBits = s.streamBits ++ (List.range len.toNat).map bits.getLsbD))

/-- R123: FLUSH emits the held bits as one byte and empties the packer; with none held it does nothing; the byte's high bits are 0 in
every state that keeps the packer's invariant. -/
def Obligations.FlushEmitsThePartialByte : Prop :=
  (∀ w : Word, opField w = 0x32#8 → decode w = if w = 0x32000000#32 then .ok .flush else .error .reservedBit) ∧
  ∀ s : State,
    (s.pkCnt.toNat = 0 → exec .flush s = .next { s with pending := none }) ∧
    (0 < s.pkCnt.toNat →
      exec .flush s = .next { s with outq := s.outq ++ [s.pkAcc], pkAcc := 0#8, pkCnt := 0#3, pending := none }) ∧
    (PackerOk s → (∃ t, exec .flush s = .next t ∧ t.pkStat = 0#32) ∧
      ∀ j, s.pkCnt.toNat ≤ j → s.pkAcc.getLsbD j = false)

/-- R125: from an empty packer, any packing commands and then FLUSH emit exactly the bytes of the concatenated bits, padded with
fewer than 8 zeros. -/
def Obligations.PackedStreamIsTheConcatenation : Prop :=
  ∀ (s : State) (cmds : List (Instr × List Bool)), PackerOk s → s.pkCnt = 0#3 → (∀ c ∈ cmds, Packs s c.1 c.2) →
    ∃ t bytes pad, execAll (cmds.map Prod.fst ++ [.flush]) s = .next t ∧ t.outq = s.outq ++ bytes ∧ pad < 8 ∧
      bytes.flatMap byteBits = cmds.flatMap Prod.snd ++ List.replicate pad false ∧ t.pkCnt = 0#3 ∧ t.pkAcc = 0#8

/-! ### The bit-unpacker -/

/-- R141: DECODE's errors in order; without one it completes, changing the cursor and the queue alone. -/
def Obligations.DecodeTrapsOrCompletes : Prop :=
  (∀ w : Word, opField w = 0x40#8 → decode w =
    if (immField w).toNat < 256 then .ok (.decode (aField w) (w.extractLsb' 0 8)) else .error .reservedBit) ∧
  ∀ (s : State) (nbits : BitVec 8) (byte : Byte),
    (nbits.toNat = 0 ∨ 8 < nbits.toNat → Raises (.decode nbits byte) s .illegalOperand) ∧
    (1 ≤ nbits.toNat → nbits.toNat ≤ 8 → s.treeValid = false → Raises (.decode nbits byte) s .noTree) ∧
    (1 ≤ nbits.toNat → nbits.toNat ≤ 8 → s.treeValid = true → s.ncount.toNat = 0 →
      Raises (.decode nbits byte) s .emptyTree) ∧
    (1 ≤ nbits.toNat → nbits.toNat ≤ 8 → s.treeValid = true → s.ncount.toNat ≠ 0 → s.nleaf.toNat = 1 →
      Raises (.decode nbits byte) s .degenerateTree) ∧
    (1 ≤ nbits.toNat → nbits.toNat ≤ 8 → s.treeValid = true → s.ncount.toNat ≠ 0 → s.nleaf.toNat ≠ 1 →
      ∃ t bytes, exec (.decode nbits byte) s = .next t ∧ bytes.length ≤ nbits.toNat ∧
        t = { s with decCur := t.decCur, outq := s.outq ++ bytes, pending := none })

/-- R140, R141: DECODE of one bit goes left on 0 and right on 1; at a leaf it emits the symbol and is back at the root, else it stays
at the child. A byte is walked bit 0 first, and a code may span commands: DECODE of `a + b` bits is DECODE of the low `a` bits, then
of the next `b`. -/
def Obligations.DecodeWalksBitByBit : Prop :=
  (∀ (s : State) (byte : Byte), s.treeValid = true → s.ncount.toNat ≠ 0 → s.nleaf.toNat ≠ 1 →
    let child := if byte.getLsbD 0 then (nodeAt s.node s.decCur.toNat).right else (nodeAt s.node s.decCur.toNat).left
    ((nodeAt s.node child.toNat).kind = .leaf →
      exec (.decode 1#8 byte) s = .next
        { s with
          outq := s.outq ++ [(nodeAt s.node child.toNat).symbol], decCur := (s.ncount - 1#10).setWidth 9,
          pending := none }) ∧
    ((nodeAt s.node child.toNat).kind ≠ .leaf →
      exec (.decode 1#8 byte) s = .next { s with decCur := child, pending := none })) ∧
  (∀ (s t : State) (a b : BitVec 8) (byte : Byte), 1 ≤ a.toNat → 1 ≤ b.toNat → a.toNat + b.toNat ≤ 8 →
    s.treeValid = true → s.ncount.toNat ≠ 0 → s.nleaf.toNat ≠ 1 → exec (.decode a byte) s = .next t →
    exec (.decode (a + b) byte) s = exec (.decode b (byte >>> a.toNat)) t)

/-- R105, R140, R144: from the root of a tree whose codes are extracted, walking over the codes of any symbols one after the other
emits exactly those symbols, and ends at the root with all else unchanged. -/
def Obligations.DecodingCodesGivesTheSymbols : Prop :=
  ∀ (s : State) (xs : List Byte), TreeOk s → CodesOk s → s.codesValid = true → 2 ≤ s.nleaf.toNat →
    s.decCur = rootIdx s.ncount → s.pending = none → (∀ x ∈ xs, symGet s.codeValid x = true) →
    execAll ((xs.flatMap s.codeOf).map decodeBit) s = .next { s with outq := s.outq ++ xs }

/-- R142: DECRESET puts the cursor at the root, or at 0 without a tree or with an empty one, and changes nothing else. -/
def Obligations.DecresetGoesToTheRoot : Prop :=
  (∀ w : Word, opField w = 0x41#8 → decode w = if w = 0x41000000#32 then .ok .decreset else .error .reservedBit) ∧
  ∀ s : State,
    (s.treeValid = true → 0 < s.ncount.toNat →
      exec .decreset s = .next { s with decCur := (s.ncount - 1#10).setWidth 9, pending := none }) ∧
    (s.treeValid = false ∨ s.ncount.toNat = 0 → exec .decreset s = .next { s with decCur := 0#9, pending := none })

/-! ### What commands write, and what every step keeps -/

/-- R48, R49, R124: a command appends its bytes to the queue, at most 32 for ENCODE, 2 for PACK, 1 for FLUSH, 8 for DECODE and none
for any other. -/
def Obligations.CommandsEmitWithinTheirBounds : Prop :=
  ∀ (i : Instr) (s t : State), exec i s = .next t →
    ∃ bytes, t.outq = s.outq ++ bytes ∧
      bytes.length ≤ emitBound i

/-- R20, R23, R25, R33 to R39: what each kind of state is written by: every command leaves ARG and the model's own fields, empties
PENDING, and leaves each register and array unless it is one of the commands its rule names. -/
def Obligations.EachStateIsWrittenByItsOwnCommands : Prop :=
  ∀ (i : Instr) (s t : State), exec i s = .next t →
    t.arg = s.arg ∧ t.sched = s.sched ∧ t.reads = s.reads ∧ t.freeIdx = s.freeIdx ∧ t.pending = none ∧
    ((match i with | .clear | .qleaves | .qroot | .qnode _ _ | .qlen _ | .qbits _ _ => False | _ => True) →
      t.result = s.result) ∧
    ((match i with | .clear | .setfreq _ => False | _ => True) → t.present = s.present ∧ t.freq = s.freq) ∧
    ((match i with | .clear | .setfreq _ | .build => False | _ => True) →
      t.node = s.node ∧ t.ncount = s.ncount ∧ t.nleaf = s.nleaf ∧ t.treeValid = s.treeValid) ∧
    ((match i with | .clear | .setfreq _ | .build | .extract => False | _ => True) →
      t.codeValid = s.codeValid ∧ t.codeLen = s.codeLen ∧ t.codeBits = s.codeBits ∧ t.codesValid = s.codesValid ∧
      t.lastBits = s.lastBits) ∧
    ((match i with | .clear | .encode _ | .pack _ _ | .flush => False | _ => True) →
      t.pkAcc = s.pkAcc ∧ t.pkCnt = s.pkCnt) ∧
    ((match i with | .clear | .setfreq _ | .build | .decode _ _ | .decreset => False | _ => True) → t.decCur = s.decCur) ∧
    ((match i with | .encode _ | .pack _ _ | .flush | .decode _ _ => False | _ => True) → t.outq = s.outq)

/-- R38, R28: every step keeps the packer's unused bits 0, and ERRCMD 0 while there is no error. -/
def Obligations.StepKeepsThePackerAndTheErrors : Prop :=
  ∀ s t : State, step s = .next t → (PackerOk s → PackerOk t) ∧ (ErrorsOk s → ErrorsOk t)

/-- R48, R124: every step keeps the queue within OQ_DEPTH, whatever OQ_DEPTH is; no byte is ever lost. -/
def Obligations.StepKeepsTheQueueBound : Prop :=
  ∀ s t : State, QueueOk s → step s = .next t → QueueOk t

/-- R34, R35, R96: every step keeps the arena and its counters a built forest or empty. -/
def Obligations.StepKeepsTheForest : Prop := ∀ s t : State, TreeOk s → step s = .next t → TreeOk t

/-- R39: every step keeps the cursor at an internal node of a tree of two leaves or more, and at 0 otherwise. -/
def Obligations.StepKeepsTheCursor : Prop := ∀ s t : State, TreeOk s → CursorOk s → step s = .next t → CursorOk t

/-- R36, R107 (5): every step keeps the code table empty while the codes are not valid, and what EXTRACT makes of the current forest
while they are. -/
def Obligations.StepKeepsTheCodeTable : Prop := ∀ s t : State, CodesOk s → step s = .next t → CodesOk t

/-- R36, R107 (4): every bit of a stored code at its length and above is 0. -/
def Obligations.CodesHaveNoBitsAboveTheirLength : Prop := ∀ s : State, TreeOk s → CodesOk s → CodeWidthOk s

/-! ### The host contract -/

/-- R62 to R65, R67, R68: the container of no bytes is empty; of one byte value repeated `k` times it is 00, the symbol and `le32(k)`,
with header_size 6; both decode to the input. A container of one entry decodes to that symbol repeated, after what the commands before
it drained, whatever the core's state and whatever follows the sixth byte. That the drained bytes come first is deduced from `cmd` of
R64, which R65 uses (notes/assumptions/7.md). The host procedures take one of the interleavings R64 allows, which is the model's choice
(notes/assumptions/7.md). -/
def Obligations.SmallContainers : Prop :=
  (∃ r, hostEncode State.reset [] = some r ∧ r.bytes = [] ∧ r.headerSize = 0) ∧
  (∃ d, hostDecode State.reset [] = .ok d ∧ d.bytes = [] ∧ d.headerSize = 0) ∧
  (∀ (sym : Byte) (k : Nat), 1 ≤ k → k < 2 ^ 32 →
    (∃ r, hostEncode State.reset (List.replicate k sym) = some r ∧
      r.bytes = [0x00#8, sym] ++ le32 (BitVec.ofNat 32 k) ∧ r.headerSize = 6 ∧ r.core.errCode = .none) ∧
    (∃ d, hostDecode State.reset ([0x00#8, sym] ++ le32 (BitVec.ofNat 32 k)) = .ok d ∧
      d.bytes = List.replicate k sym ∧ d.headerSize = 6)) ∧
  (∀ (core : State) (sym : Byte) (count : BitVec 32) (rest : List Byte),
    hostDecode core ([0x00#8, sym] ++ le32 count ++ rest) = .ok
      ⟨(hostBuild core [(sym, count)]).out ++ List.replicate count.toNat sym, 6, (hostBuild core [(sym, count)]).core⟩)

/-- R65, R66: a container that ends inside its entries, or whose symbols are not strictly ascending, is a FormatError before the first
command. One of more than one entry that ends before the last-byte bit count, or whose count is above 7 or not 0 with an empty payload,
is a FormatError after BUILD: the commands' effects and the bytes drained by then stay. Whatever the core's state; the host procedures
take one of the interleavings R64 allows, which is the model's choice (notes/assumptions/7.md). -/
def Obligations.MalformedHeadersAreFormatErrors : Prop :=
  (∀ (core : State) (m : Byte) (body : List Byte), body.length < 5 * (m.toNat + 1) →
    hostDecode core (m :: body) = .error ⟨[], core⟩) ∧
  (∀ (core : State) (m : Byte) (entries : List (Byte × BitVec 32)) (rest : List Byte), entries.length = m.toNat + 1 →
    let container := m :: (entries.flatMap (fun e => e.1 :: le32 e.2) ++ rest)
    let symbols := entries.map fun e => e.1.toNat
    (¬ symbols.Pairwise (· < ·) → hostDecode core container = .error ⟨[], core⟩) ∧
    (symbols.Pairwise (· < ·) → 1 ≤ m.toNat →
      rest = [] ∨ (∃ k payload, rest = k :: payload ∧ (7 < k.toNat ∨ (payload = [] ∧ k ≠ 0#8))) →
      hostDecode core container = .error ⟨(hostBuild core entries).out, (hostBuild core entries).core⟩))

/-- R144: decoding what encoding gives is the input, for every input whose counts fit 32 bits, and neither session has an error. The
host procedures take one of the interleavings R64 allows, which is the model's choice (notes/assumptions/7.md). -/
def Obligations.HostDecodeOfHostEncodeIsTheInput : Prop :=
  ∀ input : List Byte, (∀ b, input.count b < 2 ^ 32) →
    ∃ r d, hostEncode State.reset input = some r ∧ hostDecode State.reset r.bytes = .ok d ∧
      d.bytes = input ∧ d.headerSize = r.headerSize ∧ r.core.errCode = .none ∧ d.core.errCode = .none
end

