-- ==== Sys2Proof/Laws/State.lean ====
section
/-!
SUPPORT. For every named update of State and every field, what the field is after it: one lemma each, so that no later proof
unfolds a record update.
-/

namespace Sys2Proof.Machine

variable (s : State)

/-! ### `State.discardTree`: `discard_tree()` (R89) -/

@[simp] theorem State.discardTree_arg : (s.discardTree).arg = s.arg := rfl
@[simp] theorem State.discardTree_result : (s.discardTree).result = s.result := rfl
@[simp] theorem State.discardTree_errCode : (s.discardTree).errCode = s.errCode := rfl
@[simp] theorem State.discardTree_errWord : (s.discardTree).errWord = s.errWord := rfl
@[simp] theorem State.discardTree_pending : (s.discardTree).pending = s.pending := rfl
@[simp] theorem State.discardTree_outq : (s.discardTree).outq = s.outq := rfl
@[simp] theorem State.discardTree_pkAcc : (s.discardTree).pkAcc = s.pkAcc := rfl
@[simp] theorem State.discardTree_pkCnt : (s.discardTree).pkCnt = s.pkCnt := rfl
@[simp] theorem State.discardTree_decCur : (s.discardTree).decCur = 0#9 := rfl
@[simp] theorem State.discardTree_present : (s.discardTree).present = s.present := rfl
@[simp] theorem State.discardTree_freq : (s.discardTree).freq = s.freq := rfl
@[simp] theorem State.discardTree_node : (s.discardTree).node = Vector.replicate 511 Node.empty := rfl
@[simp] theorem State.discardTree_ncount : (s.discardTree).ncount = 0#10 := rfl
@[simp] theorem State.discardTree_nleaf : (s.discardTree).nleaf = 0#9 := rfl
@[simp] theorem State.discardTree_treeValid : (s.discardTree).treeValid = false := rfl
@[simp] theorem State.discardTree_codeValid : (s.discardTree).codeValid = s.codeValid := rfl
@[simp] theorem State.discardTree_codeLen : (s.discardTree).codeLen = s.codeLen := rfl
@[simp] theorem State.discardTree_codeBits : (s.discardTree).codeBits = s.codeBits := rfl
@[simp] theorem State.discardTree_codesValid : (s.discardTree).codesValid = s.codesValid := rfl
@[simp] theorem State.discardTree_lastBits : (s.discardTree).lastBits = s.lastBits := rfl
@[simp] theorem State.discardTree_sched : (s.discardTree).sched = s.sched := rfl
@[simp] theorem State.discardTree_reads : (s.discardTree).reads = s.reads := rfl
@[simp] theorem State.discardTree_freeIdx : (s.discardTree).freeIdx = s.freeIdx := rfl

/-! ### `State.clearCodes`: `clear_codes()` (R88) -/

@[simp] theorem State.clearCodes_arg : (s.clearCodes).arg = s.arg := rfl
@[simp] theorem State.clearCodes_result : (s.clearCodes).result = s.result := rfl
@[simp] theorem State.clearCodes_errCode : (s.clearCodes).errCode = s.errCode := rfl
@[simp] theorem State.clearCodes_errWord : (s.clearCodes).errWord = s.errWord := rfl
@[simp] theorem State.clearCodes_pending : (s.clearCodes).pending = s.pending := rfl
@[simp] theorem State.clearCodes_outq : (s.clearCodes).outq = s.outq := rfl
@[simp] theorem State.clearCodes_pkAcc : (s.clearCodes).pkAcc = s.pkAcc := rfl
@[simp] theorem State.clearCodes_pkCnt : (s.clearCodes).pkCnt = s.pkCnt := rfl
@[simp] theorem State.clearCodes_decCur : (s.clearCodes).decCur = s.decCur := rfl
@[simp] theorem State.clearCodes_present : (s.clearCodes).present = s.present := rfl
@[simp] theorem State.clearCodes_freq : (s.clearCodes).freq = s.freq := rfl
@[simp] theorem State.clearCodes_node : (s.clearCodes).node = s.node := rfl
@[simp] theorem State.clearCodes_ncount : (s.clearCodes).ncount = s.ncount := rfl
@[simp] theorem State.clearCodes_nleaf : (s.clearCodes).nleaf = s.nleaf := rfl
@[simp] theorem State.clearCodes_treeValid : (s.clearCodes).treeValid = s.treeValid := rfl
@[simp] theorem State.clearCodes_codeValid : (s.clearCodes).codeValid = Vector.replicate 256 false := rfl
@[simp] theorem State.clearCodes_codeLen : (s.clearCodes).codeLen = Vector.replicate 256 0#8 := rfl
@[simp] theorem State.clearCodes_codeBits : (s.clearCodes).codeBits = Vector.replicate 256 0#256 := rfl
@[simp] theorem State.clearCodes_codesValid : (s.clearCodes).codesValid = false := rfl
@[simp] theorem State.clearCodes_lastBits : (s.clearCodes).lastBits = 0#3 := rfl
@[simp] theorem State.clearCodes_sched : (s.clearCodes).sched = s.sched := rfl
@[simp] theorem State.clearCodes_reads : (s.clearCodes).reads = s.reads := rfl
@[simp] theorem State.clearCodes_freeIdx : (s.clearCodes).freeIdx = s.freeIdx := rfl

/-! ### `State.clearFreqs`: the emptied frequency table (R86) -/

@[simp] theorem State.clearFreqs_arg : (s.clearFreqs).arg = s.arg := rfl
@[simp] theorem State.clearFreqs_result : (s.clearFreqs).result = s.result := rfl
@[simp] theorem State.clearFreqs_errCode : (s.clearFreqs).errCode = s.errCode := rfl
@[simp] theorem State.clearFreqs_errWord : (s.clearFreqs).errWord = s.errWord := rfl
@[simp] theorem State.clearFreqs_pending : (s.clearFreqs).pending = s.pending := rfl
@[simp] theorem State.clearFreqs_outq : (s.clearFreqs).outq = s.outq := rfl
@[simp] theorem State.clearFreqs_pkAcc : (s.clearFreqs).pkAcc = s.pkAcc := rfl
@[simp] theorem State.clearFreqs_pkCnt : (s.clearFreqs).pkCnt = s.pkCnt := rfl
@[simp] theorem State.clearFreqs_decCur : (s.clearFreqs).decCur = s.decCur := rfl
@[simp] theorem State.clearFreqs_present : (s.clearFreqs).present = Vector.replicate 256 false := rfl
@[simp] theorem State.clearFreqs_freq : (s.clearFreqs).freq = Vector.replicate 256 0#32 := rfl
@[simp] theorem State.clearFreqs_node : (s.clearFreqs).node = s.node := rfl
@[simp] theorem State.clearFreqs_ncount : (s.clearFreqs).ncount = s.ncount := rfl
@[simp] theorem State.clearFreqs_nleaf : (s.clearFreqs).nleaf = s.nleaf := rfl
@[simp] theorem State.clearFreqs_treeValid : (s.clearFreqs).treeValid = s.treeValid := rfl
@[simp] theorem State.clearFreqs_codeValid : (s.clearFreqs).codeValid = s.codeValid := rfl
@[simp] theorem State.clearFreqs_codeLen : (s.clearFreqs).codeLen = s.codeLen := rfl
@[simp] theorem State.clearFreqs_codeBits : (s.clearFreqs).codeBits = s.codeBits := rfl
@[simp] theorem State.clearFreqs_codesValid : (s.clearFreqs).codesValid = s.codesValid := rfl
@[simp] theorem State.clearFreqs_lastBits : (s.clearFreqs).lastBits = s.lastBits := rfl
@[simp] theorem State.clearFreqs_sched : (s.clearFreqs).sched = s.sched := rfl
@[simp] theorem State.clearFreqs_reads : (s.clearFreqs).reads = s.reads := rfl
@[simp] theorem State.clearFreqs_freeIdx : (s.clearFreqs).freeIdx = s.freeIdx := rfl

/-! ### `State.clearPacker`: the emptied packer (R86) -/

@[simp] theorem State.clearPacker_arg : (s.clearPacker).arg = s.arg := rfl
@[simp] theorem State.clearPacker_result : (s.clearPacker).result = s.result := rfl
@[simp] theorem State.clearPacker_errCode : (s.clearPacker).errCode = s.errCode := rfl
@[simp] theorem State.clearPacker_errWord : (s.clearPacker).errWord = s.errWord := rfl
@[simp] theorem State.clearPacker_pending : (s.clearPacker).pending = s.pending := rfl
@[simp] theorem State.clearPacker_outq : (s.clearPacker).outq = s.outq := rfl
@[simp] theorem State.clearPacker_pkAcc : (s.clearPacker).pkAcc = 0#8 := rfl
@[simp] theorem State.clearPacker_pkCnt : (s.clearPacker).pkCnt = 0#3 := rfl
@[simp] theorem State.clearPacker_decCur : (s.clearPacker).decCur = s.decCur := rfl
@[simp] theorem State.clearPacker_present : (s.clearPacker).present = s.present := rfl
@[simp] theorem State.clearPacker_freq : (s.clearPacker).freq = s.freq := rfl
@[simp] theorem State.clearPacker_node : (s.clearPacker).node = s.node := rfl
@[simp] theorem State.clearPacker_ncount : (s.clearPacker).ncount = s.ncount := rfl
@[simp] theorem State.clearPacker_nleaf : (s.clearPacker).nleaf = s.nleaf := rfl
@[simp] theorem State.clearPacker_treeValid : (s.clearPacker).treeValid = s.treeValid := rfl
@[simp] theorem State.clearPacker_codeValid : (s.clearPacker).codeValid = s.codeValid := rfl
@[simp] theorem State.clearPacker_codeLen : (s.clearPacker).codeLen = s.codeLen := rfl
@[simp] theorem State.clearPacker_codeBits : (s.clearPacker).codeBits = s.codeBits := rfl
@[simp] theorem State.clearPacker_codesValid : (s.clearPacker).codesValid = s.codesValid := rfl
@[simp] theorem State.clearPacker_lastBits : (s.clearPacker).lastBits = s.lastBits := rfl
@[simp] theorem State.clearPacker_sched : (s.clearPacker).sched = s.sched := rfl
@[simp] theorem State.clearPacker_reads : (s.clearPacker).reads = s.reads := rfl
@[simp] theorem State.clearPacker_freeIdx : (s.clearPacker).freeIdx = s.freeIdx := rfl

/-! ### `State.setResult`: `RESULT <- v` (R25) -/

@[simp] theorem State.setResult_arg (v : Word) : (s.setResult v).arg = s.arg := rfl
@[simp] theorem State.setResult_result (v : Word) : (s.setResult v).result = v := rfl
@[simp] theorem State.setResult_errCode (v : Word) : (s.setResult v).errCode = s.errCode := rfl
@[simp] theorem State.setResult_errWord (v : Word) : (s.setResult v).errWord = s.errWord := rfl
@[simp] theorem State.setResult_pending (v : Word) : (s.setResult v).pending = s.pending := rfl
@[simp] theorem State.setResult_outq (v : Word) : (s.setResult v).outq = s.outq := rfl
@[simp] theorem State.setResult_pkAcc (v : Word) : (s.setResult v).pkAcc = s.pkAcc := rfl
@[simp] theorem State.setResult_pkCnt (v : Word) : (s.setResult v).pkCnt = s.pkCnt := rfl
@[simp] theorem State.setResult_decCur (v : Word) : (s.setResult v).decCur = s.decCur := rfl
@[simp] theorem State.setResult_present (v : Word) : (s.setResult v).present = s.present := rfl
@[simp] theorem State.setResult_freq (v : Word) : (s.setResult v).freq = s.freq := rfl
@[simp] theorem State.setResult_node (v : Word) : (s.setResult v).node = s.node := rfl
@[simp] theorem State.setResult_ncount (v : Word) : (s.setResult v).ncount = s.ncount := rfl
@[simp] theorem State.setResult_nleaf (v : Word) : (s.setResult v).nleaf = s.nleaf := rfl
@[simp] theorem State.setResult_treeValid (v : Word) : (s.setResult v).treeValid = s.treeValid := rfl
@[simp] theorem State.setResult_codeValid (v : Word) : (s.setResult v).codeValid = s.codeValid := rfl
@[simp] theorem State.setResult_codeLen (v : Word) : (s.setResult v).codeLen = s.codeLen := rfl
@[simp] theorem State.setResult_codeBits (v : Word) : (s.setResult v).codeBits = s.codeBits := rfl
@[simp] theorem State.setResult_codesValid (v : Word) : (s.setResult v).codesValid = s.codesValid := rfl
@[simp] theorem State.setResult_lastBits (v : Word) : (s.setResult v).lastBits = s.lastBits := rfl
@[simp] theorem State.setResult_sched (v : Word) : (s.setResult v).sched = s.sched := rfl
@[simp] theorem State.setResult_reads (v : Word) : (s.setResult v).reads = s.reads := rfl
@[simp] theorem State.setResult_freeIdx (v : Word) : (s.setResult v).freeIdx = s.freeIdx := rfl

/-! ### `State.setArg`: `ARG <- v` (R23) -/

@[simp] theorem State.setArg_arg (v : Word) : (s.setArg v).arg = v := rfl
@[simp] theorem State.setArg_result (v : Word) : (s.setArg v).result = s.result := rfl
@[simp] theorem State.setArg_errCode (v : Word) : (s.setArg v).errCode = s.errCode := rfl
@[simp] theorem State.setArg_errWord (v : Word) : (s.setArg v).errWord = s.errWord := rfl
@[simp] theorem State.setArg_pending (v : Word) : (s.setArg v).pending = s.pending := rfl
@[simp] theorem State.setArg_outq (v : Word) : (s.setArg v).outq = s.outq := rfl
@[simp] theorem State.setArg_pkAcc (v : Word) : (s.setArg v).pkAcc = s.pkAcc := rfl
@[simp] theorem State.setArg_pkCnt (v : Word) : (s.setArg v).pkCnt = s.pkCnt := rfl
@[simp] theorem State.setArg_decCur (v : Word) : (s.setArg v).decCur = s.decCur := rfl
@[simp] theorem State.setArg_present (v : Word) : (s.setArg v).present = s.present := rfl
@[simp] theorem State.setArg_freq (v : Word) : (s.setArg v).freq = s.freq := rfl
@[simp] theorem State.setArg_node (v : Word) : (s.setArg v).node = s.node := rfl
@[simp] theorem State.setArg_ncount (v : Word) : (s.setArg v).ncount = s.ncount := rfl
@[simp] theorem State.setArg_nleaf (v : Word) : (s.setArg v).nleaf = s.nleaf := rfl
@[simp] theorem State.setArg_treeValid (v : Word) : (s.setArg v).treeValid = s.treeValid := rfl
@[simp] theorem State.setArg_codeValid (v : Word) : (s.setArg v).codeValid = s.codeValid := rfl
@[simp] theorem State.setArg_codeLen (v : Word) : (s.setArg v).codeLen = s.codeLen := rfl
@[simp] theorem State.setArg_codeBits (v : Word) : (s.setArg v).codeBits = s.codeBits := rfl
@[simp] theorem State.setArg_codesValid (v : Word) : (s.setArg v).codesValid = s.codesValid := rfl
@[simp] theorem State.setArg_lastBits (v : Word) : (s.setArg v).lastBits = s.lastBits := rfl
@[simp] theorem State.setArg_sched (v : Word) : (s.setArg v).sched = s.sched := rfl
@[simp] theorem State.setArg_reads (v : Word) : (s.setArg v).reads = s.reads := rfl
@[simp] theorem State.setArg_freeIdx (v : Word) : (s.setArg v).freeIdx = s.freeIdx := rfl

/-! ### `State.setSched`: the events still to come -/

@[simp] theorem State.setSched_arg (rest : List Event) : (s.setSched rest).arg = s.arg := rfl
@[simp] theorem State.setSched_result (rest : List Event) : (s.setSched rest).result = s.result := rfl
@[simp] theorem State.setSched_errCode (rest : List Event) : (s.setSched rest).errCode = s.errCode := rfl
@[simp] theorem State.setSched_errWord (rest : List Event) : (s.setSched rest).errWord = s.errWord := rfl
@[simp] theorem State.setSched_pending (rest : List Event) : (s.setSched rest).pending = s.pending := rfl
@[simp] theorem State.setSched_outq (rest : List Event) : (s.setSched rest).outq = s.outq := rfl
@[simp] theorem State.setSched_pkAcc (rest : List Event) : (s.setSched rest).pkAcc = s.pkAcc := rfl
@[simp] theorem State.setSched_pkCnt (rest : List Event) : (s.setSched rest).pkCnt = s.pkCnt := rfl
@[simp] theorem State.setSched_decCur (rest : List Event) : (s.setSched rest).decCur = s.decCur := rfl
@[simp] theorem State.setSched_present (rest : List Event) : (s.setSched rest).present = s.present := rfl
@[simp] theorem State.setSched_freq (rest : List Event) : (s.setSched rest).freq = s.freq := rfl
@[simp] theorem State.setSched_node (rest : List Event) : (s.setSched rest).node = s.node := rfl
@[simp] theorem State.setSched_ncount (rest : List Event) : (s.setSched rest).ncount = s.ncount := rfl
@[simp] theorem State.setSched_nleaf (rest : List Event) : (s.setSched rest).nleaf = s.nleaf := rfl
@[simp] theorem State.setSched_treeValid (rest : List Event) : (s.setSched rest).treeValid = s.treeValid := rfl
@[simp] theorem State.setSched_codeValid (rest : List Event) : (s.setSched rest).codeValid = s.codeValid := rfl
@[simp] theorem State.setSched_codeLen (rest : List Event) : (s.setSched rest).codeLen = s.codeLen := rfl
@[simp] theorem State.setSched_codeBits (rest : List Event) : (s.setSched rest).codeBits = s.codeBits := rfl
@[simp] theorem State.setSched_codesValid (rest : List Event) : (s.setSched rest).codesValid = s.codesValid := rfl
@[simp] theorem State.setSched_lastBits (rest : List Event) : (s.setSched rest).lastBits = s.lastBits := rfl
@[simp] theorem State.setSched_sched (rest : List Event) : (s.setSched rest).sched = rest := rfl
@[simp] theorem State.setSched_reads (rest : List Event) : (s.setSched rest).reads = s.reads := rfl
@[simp] theorem State.setSched_freeIdx (rest : List Event) : (s.setSched rest).freeIdx = s.freeIdx := rfl

/-! ### `State.emits`: emitted bytes (R49) -/

@[simp] theorem State.emits_arg (bs : List Byte) : (s.emits bs).arg = s.arg := rfl
@[simp] theorem State.emits_result (bs : List Byte) : (s.emits bs).result = s.result := rfl
@[simp] theorem State.emits_errCode (bs : List Byte) : (s.emits bs).errCode = s.errCode := rfl
@[simp] theorem State.emits_errWord (bs : List Byte) : (s.emits bs).errWord = s.errWord := rfl
@[simp] theorem State.emits_pending (bs : List Byte) : (s.emits bs).pending = s.pending := rfl
@[simp] theorem State.emits_outq (bs : List Byte) : (s.emits bs).outq = s.outq ++ bs := rfl
@[simp] theorem State.emits_pkAcc (bs : List Byte) : (s.emits bs).pkAcc = s.pkAcc := rfl
@[simp] theorem State.emits_pkCnt (bs : List Byte) : (s.emits bs).pkCnt = s.pkCnt := rfl
@[simp] theorem State.emits_decCur (bs : List Byte) : (s.emits bs).decCur = s.decCur := rfl
@[simp] theorem State.emits_present (bs : List Byte) : (s.emits bs).present = s.present := rfl
@[simp] theorem State.emits_freq (bs : List Byte) : (s.emits bs).freq = s.freq := rfl
@[simp] theorem State.emits_node (bs : List Byte) : (s.emits bs).node = s.node := rfl
@[simp] theorem State.emits_ncount (bs : List Byte) : (s.emits bs).ncount = s.ncount := rfl
@[simp] theorem State.emits_nleaf (bs : List Byte) : (s.emits bs).nleaf = s.nleaf := rfl
@[simp] theorem State.emits_treeValid (bs : List Byte) : (s.emits bs).treeValid = s.treeValid := rfl
@[simp] theorem State.emits_codeValid (bs : List Byte) : (s.emits bs).codeValid = s.codeValid := rfl
@[simp] theorem State.emits_codeLen (bs : List Byte) : (s.emits bs).codeLen = s.codeLen := rfl
@[simp] theorem State.emits_codeBits (bs : List Byte) : (s.emits bs).codeBits = s.codeBits := rfl
@[simp] theorem State.emits_codesValid (bs : List Byte) : (s.emits bs).codesValid = s.codesValid := rfl
@[simp] theorem State.emits_lastBits (bs : List Byte) : (s.emits bs).lastBits = s.lastBits := rfl
@[simp] theorem State.emits_sched (bs : List Byte) : (s.emits bs).sched = s.sched := rfl
@[simp] theorem State.emits_reads (bs : List Byte) : (s.emits bs).reads = s.reads := rfl
@[simp] theorem State.emits_freeIdx (bs : List Byte) : (s.emits bs).freeIdx = s.freeIdx := rfl

/-! ### `State.raise`: raising an error (R153) -/

@[simp] theorem State.raise_arg (e : ErrCode) (w : Word) : (s.raise e w).arg = s.arg := by
  unfold State.raise; split <;> simp_all
@[simp] theorem State.raise_result (e : ErrCode) (w : Word) : (s.raise e w).result = s.result := by
  unfold State.raise; split <;> simp_all
@[simp] theorem State.raise_errCode (e : ErrCode) (w : Word) : (s.raise e w).errCode = if s.errCode = .none then e else s.errCode := by
  unfold State.raise; split <;> simp_all
@[simp] theorem State.raise_errWord (e : ErrCode) (w : Word) : (s.raise e w).errWord = if s.errCode = .none then w else s.errWord := by
  unfold State.raise; split <;> simp_all
@[simp] theorem State.raise_pending (e : ErrCode) (w : Word) : (s.raise e w).pending = s.pending := by
  unfold State.raise; split <;> simp_all
@[simp] theorem State.raise_outq (e : ErrCode) (w : Word) : (s.raise e w).outq = s.outq := by
  unfold State.raise; split <;> simp_all
@[simp] theorem State.raise_pkAcc (e : ErrCode) (w : Word) : (s.raise e w).pkAcc = s.pkAcc := by
  unfold State.raise; split <;> simp_all
@[simp] theorem State.raise_pkCnt (e : ErrCode) (w : Word) : (s.raise e w).pkCnt = s.pkCnt := by
  unfold State.raise; split <;> simp_all
@[simp] theorem State.raise_decCur (e : ErrCode) (w : Word) : (s.raise e w).decCur = s.decCur := by
  unfold State.raise; split <;> simp_all
@[simp] theorem State.raise_present (e : ErrCode) (w : Word) : (s.raise e w).present = s.present := by
  unfold State.raise; split <;> simp_all
@[simp] theorem State.raise_freq (e : ErrCode) (w : Word) : (s.raise e w).freq = s.freq := by
  unfold State.raise; split <;> simp_all
@[simp] theorem State.raise_node (e : ErrCode) (w : Word) : (s.raise e w).node = s.node := by
  unfold State.raise; split <;> simp_all
@[simp] theorem State.raise_ncount (e : ErrCode) (w : Word) : (s.raise e w).ncount = s.ncount := by
  unfold State.raise; split <;> simp_all
@[simp] theorem State.raise_nleaf (e : ErrCode) (w : Word) : (s.raise e w).nleaf = s.nleaf := by
  unfold State.raise; split <;> simp_all
@[simp] theorem State.raise_treeValid (e : ErrCode) (w : Word) : (s.raise e w).treeValid = s.treeValid := by
  unfold State.raise; split <;> simp_all
@[simp] theorem State.raise_codeValid (e : ErrCode) (w : Word) : (s.raise e w).codeValid = s.codeValid := by
  unfold State.raise; split <;> simp_all
@[simp] theorem State.raise_codeLen (e : ErrCode) (w : Word) : (s.raise e w).codeLen = s.codeLen := by
  unfold State.raise; split <;> simp_all
@[simp] theorem State.raise_codeBits (e : ErrCode) (w : Word) : (s.raise e w).codeBits = s.codeBits := by
  unfold State.raise; split <;> simp_all
@[simp] theorem State.raise_codesValid (e : ErrCode) (w : Word) : (s.raise e w).codesValid = s.codesValid := by
  unfold State.raise; split <;> simp_all
@[simp] theorem State.raise_lastBits (e : ErrCode) (w : Word) : (s.raise e w).lastBits = s.lastBits := by
  unfold State.raise; split <;> simp_all
@[simp] theorem State.raise_sched (e : ErrCode) (w : Word) : (s.raise e w).sched = s.sched := by
  unfold State.raise; split <;> simp_all
@[simp] theorem State.raise_reads (e : ErrCode) (w : Word) : (s.raise e w).reads = s.reads := by
  unfold State.raise; split <;> simp_all
@[simp] theorem State.raise_freeIdx (e : ErrCode) (w : Word) : (s.raise e w).freeIdx = s.freeIdx := by
  unfold State.raise; split <;> simp_all

/-! ### `State.endLockout`: the end of the lockout (R155) -/

@[simp] theorem State.endLockout_arg : (s.endLockout).arg = s.arg := rfl
@[simp] theorem State.endLockout_result : (s.endLockout).result = s.result := rfl
@[simp] theorem State.endLockout_errCode : (s.endLockout).errCode = .none := rfl
@[simp] theorem State.endLockout_errWord : (s.endLockout).errWord = 0#32 := rfl
@[simp] theorem State.endLockout_pending : (s.endLockout).pending = s.pending := rfl
@[simp] theorem State.endLockout_outq : (s.endLockout).outq = s.outq := rfl
@[simp] theorem State.endLockout_pkAcc : (s.endLockout).pkAcc = s.pkAcc := rfl
@[simp] theorem State.endLockout_pkCnt : (s.endLockout).pkCnt = s.pkCnt := rfl
@[simp] theorem State.endLockout_decCur : (s.endLockout).decCur = s.decCur := rfl
@[simp] theorem State.endLockout_present : (s.endLockout).present = s.present := rfl
@[simp] theorem State.endLockout_freq : (s.endLockout).freq = s.freq := rfl
@[simp] theorem State.endLockout_node : (s.endLockout).node = s.node := rfl
@[simp] theorem State.endLockout_ncount : (s.endLockout).ncount = s.ncount := rfl
@[simp] theorem State.endLockout_nleaf : (s.endLockout).nleaf = s.nleaf := rfl
@[simp] theorem State.endLockout_treeValid : (s.endLockout).treeValid = s.treeValid := rfl
@[simp] theorem State.endLockout_codeValid : (s.endLockout).codeValid = s.codeValid := rfl
@[simp] theorem State.endLockout_codeLen : (s.endLockout).codeLen = s.codeLen := rfl
@[simp] theorem State.endLockout_codeBits : (s.endLockout).codeBits = s.codeBits := rfl
@[simp] theorem State.endLockout_codesValid : (s.endLockout).codesValid = s.codesValid := rfl
@[simp] theorem State.endLockout_lastBits : (s.endLockout).lastBits = s.lastBits := rfl
@[simp] theorem State.endLockout_sched : (s.endLockout).sched = s.sched := rfl
@[simp] theorem State.endLockout_reads : (s.endLockout).reads = s.reads := rfl
@[simp] theorem State.endLockout_freeIdx : (s.endLockout).freeIdx = s.freeIdx := rfl

/-! ### `State.complete`: the end of a command (R47) -/

@[simp] theorem State.complete_arg : (s.complete).arg = s.arg := rfl
@[simp] theorem State.complete_result : (s.complete).result = s.result := rfl
@[simp] theorem State.complete_errCode : (s.complete).errCode = s.errCode := rfl
@[simp] theorem State.complete_errWord : (s.complete).errWord = s.errWord := rfl
@[simp] theorem State.complete_pending : (s.complete).pending = none := rfl
@[simp] theorem State.complete_outq : (s.complete).outq = s.outq := rfl
@[simp] theorem State.complete_pkAcc : (s.complete).pkAcc = s.pkAcc := rfl
@[simp] theorem State.complete_pkCnt : (s.complete).pkCnt = s.pkCnt := rfl
@[simp] theorem State.complete_decCur : (s.complete).decCur = s.decCur := rfl
@[simp] theorem State.complete_present : (s.complete).present = s.present := rfl
@[simp] theorem State.complete_freq : (s.complete).freq = s.freq := rfl
@[simp] theorem State.complete_node : (s.complete).node = s.node := rfl
@[simp] theorem State.complete_ncount : (s.complete).ncount = s.ncount := rfl
@[simp] theorem State.complete_nleaf : (s.complete).nleaf = s.nleaf := rfl
@[simp] theorem State.complete_treeValid : (s.complete).treeValid = s.treeValid := rfl
@[simp] theorem State.complete_codeValid : (s.complete).codeValid = s.codeValid := rfl
@[simp] theorem State.complete_codeLen : (s.complete).codeLen = s.codeLen := rfl
@[simp] theorem State.complete_codeBits : (s.complete).codeBits = s.codeBits := rfl
@[simp] theorem State.complete_codesValid : (s.complete).codesValid = s.codesValid := rfl
@[simp] theorem State.complete_lastBits : (s.complete).lastBits = s.lastBits := rfl
@[simp] theorem State.complete_sched : (s.complete).sched = s.sched := rfl
@[simp] theorem State.complete_reads : (s.complete).reads = s.reads := rfl
@[simp] theorem State.complete_freeIdx : (s.complete).freeIdx = s.freeIdx := rfl

/-! ### `State.issue`: the issue of a command (R46) -/

@[simp] theorem State.issue_arg (v : Word) : (s.issue v).arg = s.arg := by
  unfold State.issue; split <;> simp_all
@[simp] theorem State.issue_result (v : Word) : (s.issue v).result = s.result := by
  unfold State.issue; split <;> simp_all
@[simp] theorem State.issue_pending (v : Word) : (s.issue v).pending = some (s.pending.getD ⟨v, s.arg⟩) := by
  unfold State.issue; split <;> simp_all
@[simp] theorem State.issue_outq (v : Word) : (s.issue v).outq = s.outq := by
  unfold State.issue; split <;> simp_all
@[simp] theorem State.issue_pkAcc (v : Word) : (s.issue v).pkAcc = s.pkAcc := by
  unfold State.issue; split <;> simp_all
@[simp] theorem State.issue_pkCnt (v : Word) : (s.issue v).pkCnt = s.pkCnt := by
  unfold State.issue; split <;> simp_all
@[simp] theorem State.issue_decCur (v : Word) : (s.issue v).decCur = s.decCur := by
  unfold State.issue; split <;> simp_all
@[simp] theorem State.issue_present (v : Word) : (s.issue v).present = s.present := by
  unfold State.issue; split <;> simp_all
@[simp] theorem State.issue_freq (v : Word) : (s.issue v).freq = s.freq := by
  unfold State.issue; split <;> simp_all
@[simp] theorem State.issue_node (v : Word) : (s.issue v).node = s.node := by
  unfold State.issue; split <;> simp_all
@[simp] theorem State.issue_ncount (v : Word) : (s.issue v).ncount = s.ncount := by
  unfold State.issue; split <;> simp_all
@[simp] theorem State.issue_nleaf (v : Word) : (s.issue v).nleaf = s.nleaf := by
  unfold State.issue; split <;> simp_all
@[simp] theorem State.issue_treeValid (v : Word) : (s.issue v).treeValid = s.treeValid := by
  unfold State.issue; split <;> simp_all
@[simp] theorem State.issue_codeValid (v : Word) : (s.issue v).codeValid = s.codeValid := by
  unfold State.issue; split <;> simp_all
@[simp] theorem State.issue_codeLen (v : Word) : (s.issue v).codeLen = s.codeLen := by
  unfold State.issue; split <;> simp_all
@[simp] theorem State.issue_codeBits (v : Word) : (s.issue v).codeBits = s.codeBits := by
  unfold State.issue; split <;> simp_all
@[simp] theorem State.issue_codesValid (v : Word) : (s.issue v).codesValid = s.codesValid := by
  unfold State.issue; split <;> simp_all
@[simp] theorem State.issue_lastBits (v : Word) : (s.issue v).lastBits = s.lastBits := by
  unfold State.issue; split <;> simp_all
@[simp] theorem State.issue_sched (v : Word) : (s.issue v).sched = s.sched := by
  unfold State.issue; split <;> simp_all
@[simp] theorem State.issue_reads (v : Word) : (s.issue v).reads = s.reads := by
  unfold State.issue; split <;> simp_all
@[simp] theorem State.issue_freeIdx (v : Word) : (s.issue v).freeIdx = s.freeIdx := by
  unfold State.issue; split <;> simp_all

/-! ### `State.enterFreq`: one entry of the frequency table (R87) -/

@[simp] theorem State.enterFreq_arg (sym : Byte) (c : BitVec 32) : (s.enterFreq sym c).arg = s.arg := rfl
@[simp] theorem State.enterFreq_result (sym : Byte) (c : BitVec 32) : (s.enterFreq sym c).result = s.result := rfl
@[simp] theorem State.enterFreq_errCode (sym : Byte) (c : BitVec 32) : (s.enterFreq sym c).errCode = s.errCode := rfl
@[simp] theorem State.enterFreq_errWord (sym : Byte) (c : BitVec 32) : (s.enterFreq sym c).errWord = s.errWord := rfl
@[simp] theorem State.enterFreq_pending (sym : Byte) (c : BitVec 32) : (s.enterFreq sym c).pending = s.pending := rfl
@[simp] theorem State.enterFreq_outq (sym : Byte) (c : BitVec 32) : (s.enterFreq sym c).outq = s.outq := rfl
@[simp] theorem State.enterFreq_pkAcc (sym : Byte) (c : BitVec 32) : (s.enterFreq sym c).pkAcc = s.pkAcc := rfl
@[simp] theorem State.enterFreq_pkCnt (sym : Byte) (c : BitVec 32) : (s.enterFreq sym c).pkCnt = s.pkCnt := rfl
@[simp] theorem State.enterFreq_decCur (sym : Byte) (c : BitVec 32) : (s.enterFreq sym c).decCur = s.decCur := rfl
@[simp] theorem State.enterFreq_present (sym : Byte) (c : BitVec 32) : (s.enterFreq sym c).present = symSet s.present sym true := rfl
@[simp] theorem State.enterFreq_freq (sym : Byte) (c : BitVec 32) : (s.enterFreq sym c).freq = symSet s.freq sym c := rfl
@[simp] theorem State.enterFreq_node (sym : Byte) (c : BitVec 32) : (s.enterFreq sym c).node = s.node := rfl
@[simp] theorem State.enterFreq_ncount (sym : Byte) (c : BitVec 32) : (s.enterFreq sym c).ncount = s.ncount := rfl
@[simp] theorem State.enterFreq_nleaf (sym : Byte) (c : BitVec 32) : (s.enterFreq sym c).nleaf = s.nleaf := rfl
@[simp] theorem State.enterFreq_treeValid (sym : Byte) (c : BitVec 32) : (s.enterFreq sym c).treeValid = s.treeValid := rfl
@[simp] theorem State.enterFreq_codeValid (sym : Byte) (c : BitVec 32) : (s.enterFreq sym c).codeValid = s.codeValid := rfl
@[simp] theorem State.enterFreq_codeLen (sym : Byte) (c : BitVec 32) : (s.enterFreq sym c).codeLen = s.codeLen := rfl
@[simp] theorem State.enterFreq_codeBits (sym : Byte) (c : BitVec 32) : (s.enterFreq sym c).codeBits = s.codeBits := rfl
@[simp] theorem State.enterFreq_codesValid (sym : Byte) (c : BitVec 32) : (s.enterFreq sym c).codesValid = s.codesValid := rfl
@[simp] theorem State.enterFreq_lastBits (sym : Byte) (c : BitVec 32) : (s.enterFreq sym c).lastBits = s.lastBits := rfl
@[simp] theorem State.enterFreq_sched (sym : Byte) (c : BitVec 32) : (s.enterFreq sym c).sched = s.sched := rfl
@[simp] theorem State.enterFreq_reads (sym : Byte) (c : BitVec 32) : (s.enterFreq sym c).reads = s.reads := rfl
@[simp] theorem State.enterFreq_freeIdx (sym : Byte) (c : BitVec 32) : (s.enterFreq sym c).freeIdx = s.freeIdx := rfl

/-! ### `State.setForest`: a new forest (R95) -/

@[simp] theorem State.setForest_arg (f : List Node) (n : Nat) : (s.setForest f n).arg = s.arg := rfl
@[simp] theorem State.setForest_result (f : List Node) (n : Nat) : (s.setForest f n).result = s.result := rfl
@[simp] theorem State.setForest_errCode (f : List Node) (n : Nat) : (s.setForest f n).errCode = s.errCode := rfl
@[simp] theorem State.setForest_errWord (f : List Node) (n : Nat) : (s.setForest f n).errWord = s.errWord := rfl
@[simp] theorem State.setForest_pending (f : List Node) (n : Nat) : (s.setForest f n).pending = s.pending := rfl
@[simp] theorem State.setForest_outq (f : List Node) (n : Nat) : (s.setForest f n).outq = s.outq := rfl
@[simp] theorem State.setForest_pkAcc (f : List Node) (n : Nat) : (s.setForest f n).pkAcc = s.pkAcc := rfl
@[simp] theorem State.setForest_pkCnt (f : List Node) (n : Nat) : (s.setForest f n).pkCnt = s.pkCnt := rfl
@[simp] theorem State.setForest_decCur (f : List Node) (n : Nat) : (s.setForest f n).decCur = rootIdx (BitVec.ofNat 10 f.length) := rfl
@[simp] theorem State.setForest_present (f : List Node) (n : Nat) : (s.setForest f n).present = s.present := rfl
@[simp] theorem State.setForest_freq (f : List Node) (n : Nat) : (s.setForest f n).freq = s.freq := rfl
@[simp] theorem State.setForest_node (f : List Node) (n : Nat) : (s.setForest f n).node = arenaOf f := rfl
@[simp] theorem State.setForest_ncount (f : List Node) (n : Nat) : (s.setForest f n).ncount = BitVec.ofNat 10 f.length := rfl
@[simp] theorem State.setForest_nleaf (f : List Node) (n : Nat) : (s.setForest f n).nleaf = BitVec.ofNat 9 n := rfl
@[simp] theorem State.setForest_treeValid (f : List Node) (n : Nat) : (s.setForest f n).treeValid = true := rfl
@[simp] theorem State.setForest_codeValid (f : List Node) (n : Nat) : (s.setForest f n).codeValid = s.codeValid := rfl
@[simp] theorem State.setForest_codeLen (f : List Node) (n : Nat) : (s.setForest f n).codeLen = s.codeLen := rfl
@[simp] theorem State.setForest_codeBits (f : List Node) (n : Nat) : (s.setForest f n).codeBits = s.codeBits := rfl
@[simp] theorem State.setForest_codesValid (f : List Node) (n : Nat) : (s.setForest f n).codesValid = s.codesValid := rfl
@[simp] theorem State.setForest_lastBits (f : List Node) (n : Nat) : (s.setForest f n).lastBits = s.lastBits := rfl
@[simp] theorem State.setForest_sched (f : List Node) (n : Nat) : (s.setForest f n).sched = s.sched := rfl
@[simp] theorem State.setForest_reads (f : List Node) (n : Nat) : (s.setForest f n).reads = s.reads := rfl
@[simp] theorem State.setForest_freeIdx (f : List Node) (n : Nat) : (s.setForest f n).freeIdx = s.freeIdx := rfl

/-! ### `State.setCodes`: a new code table (R106) -/

@[simp] theorem State.setCodes_arg (t : CodeTable) (n : Nat) : (s.setCodes t n).arg = s.arg := rfl
@[simp] theorem State.setCodes_result (t : CodeTable) (n : Nat) : (s.setCodes t n).result = s.result := rfl
@[simp] theorem State.setCodes_errCode (t : CodeTable) (n : Nat) : (s.setCodes t n).errCode = s.errCode := rfl
@[simp] theorem State.setCodes_errWord (t : CodeTable) (n : Nat) : (s.setCodes t n).errWord = s.errWord := rfl
@[simp] theorem State.setCodes_pending (t : CodeTable) (n : Nat) : (s.setCodes t n).pending = s.pending := rfl
@[simp] theorem State.setCodes_outq (t : CodeTable) (n : Nat) : (s.setCodes t n).outq = s.outq := rfl
@[simp] theorem State.setCodes_pkAcc (t : CodeTable) (n : Nat) : (s.setCodes t n).pkAcc = s.pkAcc := rfl
@[simp] theorem State.setCodes_pkCnt (t : CodeTable) (n : Nat) : (s.setCodes t n).pkCnt = s.pkCnt := rfl
@[simp] theorem State.setCodes_decCur (t : CodeTable) (n : Nat) : (s.setCodes t n).decCur = s.decCur := rfl
@[simp] theorem State.setCodes_present (t : CodeTable) (n : Nat) : (s.setCodes t n).present = s.present := rfl
@[simp] theorem State.setCodes_freq (t : CodeTable) (n : Nat) : (s.setCodes t n).freq = s.freq := rfl
@[simp] theorem State.setCodes_node (t : CodeTable) (n : Nat) : (s.setCodes t n).node = s.node := rfl
@[simp] theorem State.setCodes_ncount (t : CodeTable) (n : Nat) : (s.setCodes t n).ncount = s.ncount := rfl
@[simp] theorem State.setCodes_nleaf (t : CodeTable) (n : Nat) : (s.setCodes t n).nleaf = s.nleaf := rfl
@[simp] theorem State.setCodes_treeValid (t : CodeTable) (n : Nat) : (s.setCodes t n).treeValid = s.treeValid := rfl
@[simp] theorem State.setCodes_codeValid (t : CodeTable) (n : Nat) : (s.setCodes t n).codeValid = t.valid := rfl
@[simp] theorem State.setCodes_codeLen (t : CodeTable) (n : Nat) : (s.setCodes t n).codeLen = t.len := rfl
@[simp] theorem State.setCodes_codeBits (t : CodeTable) (n : Nat) : (s.setCodes t n).codeBits = t.bits := rfl
@[simp] theorem State.setCodes_codesValid (t : CodeTable) (n : Nat) : (s.setCodes t n).codesValid = true := rfl
@[simp] theorem State.setCodes_lastBits (t : CodeTable) (n : Nat) : (s.setCodes t n).lastBits = BitVec.ofNat 3 (n % 8) := rfl
@[simp] theorem State.setCodes_sched (t : CodeTable) (n : Nat) : (s.setCodes t n).sched = s.sched := rfl
@[simp] theorem State.setCodes_reads (t : CodeTable) (n : Nat) : (s.setCodes t n).reads = s.reads := rfl
@[simp] theorem State.setCodes_freeIdx (t : CodeTable) (n : Nat) : (s.setCodes t n).freeIdx = s.freeIdx := rfl

/-! ### `State.setPacker`: a new packer (R120) -/

@[simp] theorem State.setPacker_arg (p : Packer) : (s.setPacker p).arg = s.arg := rfl
@[simp] theorem State.setPacker_result (p : Packer) : (s.setPacker p).result = s.result := rfl
@[simp] theorem State.setPacker_errCode (p : Packer) : (s.setPacker p).errCode = s.errCode := rfl
@[simp] theorem State.setPacker_errWord (p : Packer) : (s.setPacker p).errWord = s.errWord := rfl
@[simp] theorem State.setPacker_pending (p : Packer) : (s.setPacker p).pending = s.pending := rfl
@[simp] theorem State.setPacker_outq (p : Packer) : (s.setPacker p).outq = s.outq ++ p.out := rfl
@[simp] theorem State.setPacker_pkAcc (p : Packer) : (s.setPacker p).pkAcc = p.acc := rfl
@[simp] theorem State.setPacker_pkCnt (p : Packer) : (s.setPacker p).pkCnt = p.cnt := rfl
@[simp] theorem State.setPacker_decCur (p : Packer) : (s.setPacker p).decCur = s.decCur := rfl
@[simp] theorem State.setPacker_present (p : Packer) : (s.setPacker p).present = s.present := rfl
@[simp] theorem State.setPacker_freq (p : Packer) : (s.setPacker p).freq = s.freq := rfl
@[simp] theorem State.setPacker_node (p : Packer) : (s.setPacker p).node = s.node := rfl
@[simp] theorem State.setPacker_ncount (p : Packer) : (s.setPacker p).ncount = s.ncount := rfl
@[simp] theorem State.setPacker_nleaf (p : Packer) : (s.setPacker p).nleaf = s.nleaf := rfl
@[simp] theorem State.setPacker_treeValid (p : Packer) : (s.setPacker p).treeValid = s.treeValid := rfl
@[simp] theorem State.setPacker_codeValid (p : Packer) : (s.setPacker p).codeValid = s.codeValid := rfl
@[simp] theorem State.setPacker_codeLen (p : Packer) : (s.setPacker p).codeLen = s.codeLen := rfl
@[simp] theorem State.setPacker_codeBits (p : Packer) : (s.setPacker p).codeBits = s.codeBits := rfl
@[simp] theorem State.setPacker_codesValid (p : Packer) : (s.setPacker p).codesValid = s.codesValid := rfl
@[simp] theorem State.setPacker_lastBits (p : Packer) : (s.setPacker p).lastBits = s.lastBits := rfl
@[simp] theorem State.setPacker_sched (p : Packer) : (s.setPacker p).sched = s.sched := rfl
@[simp] theorem State.setPacker_reads (p : Packer) : (s.setPacker p).reads = s.reads := rfl
@[simp] theorem State.setPacker_freeIdx (p : Packer) : (s.setPacker p).freeIdx = s.freeIdx := rfl

/-! ### `State.setWalk`: a walk (R140) -/

@[simp] theorem State.setWalk_arg (x : Walk) : (s.setWalk x).arg = s.arg := rfl
@[simp] theorem State.setWalk_result (x : Walk) : (s.setWalk x).result = s.result := rfl
@[simp] theorem State.setWalk_errCode (x : Walk) : (s.setWalk x).errCode = s.errCode := rfl
@[simp] theorem State.setWalk_errWord (x : Walk) : (s.setWalk x).errWord = s.errWord := rfl
@[simp] theorem State.setWalk_pending (x : Walk) : (s.setWalk x).pending = s.pending := rfl
@[simp] theorem State.setWalk_outq (x : Walk) : (s.setWalk x).outq = s.outq ++ x.out := rfl
@[simp] theorem State.setWalk_pkAcc (x : Walk) : (s.setWalk x).pkAcc = s.pkAcc := rfl
@[simp] theorem State.setWalk_pkCnt (x : Walk) : (s.setWalk x).pkCnt = s.pkCnt := rfl
@[simp] theorem State.setWalk_decCur (x : Walk) : (s.setWalk x).decCur = x.cur := rfl
@[simp] theorem State.setWalk_present (x : Walk) : (s.setWalk x).present = s.present := rfl
@[simp] theorem State.setWalk_freq (x : Walk) : (s.setWalk x).freq = s.freq := rfl
@[simp] theorem State.setWalk_node (x : Walk) : (s.setWalk x).node = s.node := rfl
@[simp] theorem State.setWalk_ncount (x : Walk) : (s.setWalk x).ncount = s.ncount := rfl
@[simp] theorem State.setWalk_nleaf (x : Walk) : (s.setWalk x).nleaf = s.nleaf := rfl
@[simp] theorem State.setWalk_treeValid (x : Walk) : (s.setWalk x).treeValid = s.treeValid := rfl
@[simp] theorem State.setWalk_codeValid (x : Walk) : (s.setWalk x).codeValid = s.codeValid := rfl
@[simp] theorem State.setWalk_codeLen (x : Walk) : (s.setWalk x).codeLen = s.codeLen := rfl
@[simp] theorem State.setWalk_codeBits (x : Walk) : (s.setWalk x).codeBits = s.codeBits := rfl
@[simp] theorem State.setWalk_codesValid (x : Walk) : (s.setWalk x).codesValid = s.codesValid := rfl
@[simp] theorem State.setWalk_lastBits (x : Walk) : (s.setWalk x).lastBits = s.lastBits := rfl
@[simp] theorem State.setWalk_sched (x : Walk) : (s.setWalk x).sched = s.sched := rfl
@[simp] theorem State.setWalk_reads (x : Walk) : (s.setWalk x).reads = s.reads := rfl
@[simp] theorem State.setWalk_freeIdx (x : Walk) : (s.setWalk x).freeIdx = s.freeIdx := rfl

/-! ### `State.drawFree`: a free value drawn (R187) -/

@[simp] theorem State.drawFree_arg : (s.drawFree).arg = s.arg := rfl
@[simp] theorem State.drawFree_result : (s.drawFree).result = s.result := rfl
@[simp] theorem State.drawFree_errCode : (s.drawFree).errCode = s.errCode := rfl
@[simp] theorem State.drawFree_errWord : (s.drawFree).errWord = s.errWord := rfl
@[simp] theorem State.drawFree_pending : (s.drawFree).pending = s.pending := rfl
@[simp] theorem State.drawFree_outq : (s.drawFree).outq = s.outq := rfl
@[simp] theorem State.drawFree_pkAcc : (s.drawFree).pkAcc = s.pkAcc := rfl
@[simp] theorem State.drawFree_pkCnt : (s.drawFree).pkCnt = s.pkCnt := rfl
@[simp] theorem State.drawFree_decCur : (s.drawFree).decCur = s.decCur := rfl
@[simp] theorem State.drawFree_present : (s.drawFree).present = s.present := rfl
@[simp] theorem State.drawFree_freq : (s.drawFree).freq = s.freq := rfl
@[simp] theorem State.drawFree_node : (s.drawFree).node = s.node := rfl
@[simp] theorem State.drawFree_ncount : (s.drawFree).ncount = s.ncount := rfl
@[simp] theorem State.drawFree_nleaf : (s.drawFree).nleaf = s.nleaf := rfl
@[simp] theorem State.drawFree_treeValid : (s.drawFree).treeValid = s.treeValid := rfl
@[simp] theorem State.drawFree_codeValid : (s.drawFree).codeValid = s.codeValid := rfl
@[simp] theorem State.drawFree_codeLen : (s.drawFree).codeLen = s.codeLen := rfl
@[simp] theorem State.drawFree_codeBits : (s.drawFree).codeBits = s.codeBits := rfl
@[simp] theorem State.drawFree_codesValid : (s.drawFree).codesValid = s.codesValid := rfl
@[simp] theorem State.drawFree_lastBits : (s.drawFree).lastBits = s.lastBits := rfl
@[simp] theorem State.drawFree_sched : (s.drawFree).sched = s.sched := rfl
@[simp] theorem State.drawFree_reads : (s.drawFree).reads = s.reads := rfl
@[simp] theorem State.drawFree_freeIdx : (s.drawFree).freeIdx = s.freeIdx + 1 := rfl

/-! ### `State.popOut`: a byte popped (R29) -/

@[simp] theorem State.popOut_arg : (s.popOut).arg = s.arg := rfl
@[simp] theorem State.popOut_result : (s.popOut).result = s.result := rfl
@[simp] theorem State.popOut_errCode : (s.popOut).errCode = s.errCode := rfl
@[simp] theorem State.popOut_errWord : (s.popOut).errWord = s.errWord := rfl
@[simp] theorem State.popOut_pending : (s.popOut).pending = s.pending := rfl
@[simp] theorem State.popOut_outq : (s.popOut).outq = s.outq.drop 1 := rfl
@[simp] theorem State.popOut_pkAcc : (s.popOut).pkAcc = s.pkAcc := rfl
@[simp] theorem State.popOut_pkCnt : (s.popOut).pkCnt = s.pkCnt := rfl
@[simp] theorem State.popOut_decCur : (s.popOut).decCur = s.decCur := rfl
@[simp] theorem State.popOut_present : (s.popOut).present = s.present := rfl
@[simp] theorem State.popOut_freq : (s.popOut).freq = s.freq := rfl
@[simp] theorem State.popOut_node : (s.popOut).node = s.node := rfl
@[simp] theorem State.popOut_ncount : (s.popOut).ncount = s.ncount := rfl
@[simp] theorem State.popOut_nleaf : (s.popOut).nleaf = s.nleaf := rfl
@[simp] theorem State.popOut_treeValid : (s.popOut).treeValid = s.treeValid := rfl
@[simp] theorem State.popOut_codeValid : (s.popOut).codeValid = s.codeValid := rfl
@[simp] theorem State.popOut_codeLen : (s.popOut).codeLen = s.codeLen := rfl
@[simp] theorem State.popOut_codeBits : (s.popOut).codeBits = s.codeBits := rfl
@[simp] theorem State.popOut_codesValid : (s.popOut).codesValid = s.codesValid := rfl
@[simp] theorem State.popOut_lastBits : (s.popOut).lastBits = s.lastBits := rfl
@[simp] theorem State.popOut_sched : (s.popOut).sched = s.sched := rfl
@[simp] theorem State.popOut_reads : (s.popOut).reads = s.reads := rfl
@[simp] theorem State.popOut_freeIdx : (s.popOut).freeIdx = s.freeIdx := rfl

/-! ### `State.observe`: a value read (R40) -/

@[simp] theorem State.observe_arg (v : Word) : (s.observe v).arg = s.arg := rfl
@[simp] theorem State.observe_result (v : Word) : (s.observe v).result = s.result := rfl
@[simp] theorem State.observe_errCode (v : Word) : (s.observe v).errCode = s.errCode := rfl
@[simp] theorem State.observe_errWord (v : Word) : (s.observe v).errWord = s.errWord := rfl
@[simp] theorem State.observe_pending (v : Word) : (s.observe v).pending = s.pending := rfl
@[simp] theorem State.observe_outq (v : Word) : (s.observe v).outq = s.outq := rfl
@[simp] theorem State.observe_pkAcc (v : Word) : (s.observe v).pkAcc = s.pkAcc := rfl
@[simp] theorem State.observe_pkCnt (v : Word) : (s.observe v).pkCnt = s.pkCnt := rfl
@[simp] theorem State.observe_decCur (v : Word) : (s.observe v).decCur = s.decCur := rfl
@[simp] theorem State.observe_present (v : Word) : (s.observe v).present = s.present := rfl
@[simp] theorem State.observe_freq (v : Word) : (s.observe v).freq = s.freq := rfl
@[simp] theorem State.observe_node (v : Word) : (s.observe v).node = s.node := rfl
@[simp] theorem State.observe_ncount (v : Word) : (s.observe v).ncount = s.ncount := rfl
@[simp] theorem State.observe_nleaf (v : Word) : (s.observe v).nleaf = s.nleaf := rfl
@[simp] theorem State.observe_treeValid (v : Word) : (s.observe v).treeValid = s.treeValid := rfl
@[simp] theorem State.observe_codeValid (v : Word) : (s.observe v).codeValid = s.codeValid := rfl
@[simp] theorem State.observe_codeLen (v : Word) : (s.observe v).codeLen = s.codeLen := rfl
@[simp] theorem State.observe_codeBits (v : Word) : (s.observe v).codeBits = s.codeBits := rfl
@[simp] theorem State.observe_codesValid (v : Word) : (s.observe v).codesValid = s.codesValid := rfl
@[simp] theorem State.observe_lastBits (v : Word) : (s.observe v).lastBits = s.lastBits := rfl
@[simp] theorem State.observe_sched (v : Word) : (s.observe v).sched = s.sched := rfl
@[simp] theorem State.observe_reads (v : Word) : (s.observe v).reads = s.reads ++ [v] := rfl
@[simp] theorem State.observe_freeIdx (v : Word) : (s.observe v).freeIdx = s.freeIdx := rfl

end Sys2Proof.Machine
end

