-- ==== Sys2Proof/Laws/Ops.lean ====
section
/-!
SUPPORT. One lemma per shared operation that says everything it can do, for later proofs to cite: the arrays, the checks and the end
of a command, the core step and the machine's step (what each outcome comes from), the lists the packer and the walk run over, the
sizes of a forest, and what the host contract reads of a header.
-/

namespace Sys2Proof.Machine

/-! ### Arrays -/

theorem symGet_symSet {α : Type} (t : Vector α 256) (a b : Byte) (v : α) :
    symGet (symSet t a v) b = if a = b then v else symGet t b := by
  simp only [symGet, symSet, Vector.getElem_set, BitVec.toNat_inj]

@[simp] theorem symGet_replicate {α : Type} (v : α) (b : Byte) : symGet (Vector.replicate 256 v) b = v :=
  Vector.getElem_replicate ..

@[simp] theorem nodeAt_replicate (i : Nat) : nodeAt (Vector.replicate 511 Node.empty) i = Node.empty := by
  unfold nodeAt; rw [Vector.getElem?_replicate]; split <;> rfl

theorem nodeAt_arenaOf {f : List Node} (h : f.length ≤ 511) (i : Nat) : nodeAt (arenaOf f) i = forestAt f i := by
  unfold nodeAt forestAt arenaOf
  simp only [Vector.getElem?_mk, List.getElem?_toArray, List.getElem?_take, List.getElem?_append, List.getElem?_replicate]
  by_cases h₁ : i < f.length
  · simp [h₁, show i < 511 by omega]
  · simp only [h₁, if_false, List.getElem?_eq_none (not_lt.mp h₁)]
    split <;> [(split <;> rfl); rfl]

/-- The node of a forest entry is the arena's. -/
theorem forestAt_forest (s : State) {i : Nat} (h : i < s.ncount.toNat) : forestAt s.forest i = nodeAt s.node i := by
  unfold forestAt State.forest nodeAt
  rw [List.getElem?_take, if_pos h, Vector.getElem?_toList]

theorem forest_arenaOf (s : State) {f : List Node} (n : Nat) (h : f.length ≤ 511) : (s.setForest f n).forest = f := by
  have hn : (BitVec.ofNat 10 f.length).toNat = f.length := by
    rw [BitVec.toNat_ofNat]; exact Nat.mod_eq_of_lt (by omega)
  simp only [State.forest, State.setForest_node, State.setForest_ncount, hn, arenaOf, Vector.toList_mk, List.take_take,
    Nat.min_eq_left h, List.take_append_of_le_length (Nat.le_refl _), List.take_length]

theorem mem_symbols (b : Byte) : b ∈ symbols :=
  List.mem_map.mpr ⟨b.toNat, List.mem_range.mpr b.isLt, by simp⟩

/-! ### Errors and the end of a command -/

theorem raise_of_none {s : State} (h : s.errCode = .none) (e : ErrCode) (w : Word) :
    s.raise e w = { s with errCode := e, errWord := w } := if_pos h

theorem raise_of_error {s : State} (h : s.errCode ≠ .none) (e : ErrCode) (w : Word) : s.raise e w = s := if_neg h

/-- No error is raised exactly when no check holds (R152). -/
theorem firstError_eq_none {cs : List (Bool × ErrCode)} : firstError cs = none ↔ ∀ c ∈ cs, c.1 = false := by
  induction cs with
  | nil => simp [firstError]
  | cons c cs ih => obtain ⟨_ | _, e⟩ := c <;> simp [firstError, ih]

/-- The error raised is the first whose check holds (R152). -/
theorem firstError_eq_some {cs : List (Bool × ErrCode)} {e : ErrCode} :
    firstError cs = some e ↔ ∃ l r, cs = l ++ (true, e) :: r ∧ ∀ c ∈ l, c.1 = false := by
  induction cs with
  | nil => simp [firstError]
  | cons c cs ih =>
    obtain ⟨_ | _, e'⟩ := c
    · simp only [firstError, Bool.false_eq_true, if_false, ih]
      constructor
      · rintro ⟨l, r, rfl, h⟩
        exact ⟨(false, e') :: l, r, rfl, by simpa using h⟩
      · rintro ⟨l, r, h, hl⟩
        cases l with
        | nil => simp at h
        | cons a l =>
          simp only [List.cons_append, List.cons.injEq] at h
          exact ⟨l, r, h.2, fun c hc => hl c (List.mem_cons_of_mem _ hc)⟩
    · simp only [firstError, if_true, Option.some.injEq]
      constructor
      · rintro rfl; exact ⟨[], cs, rfl, by simp⟩
      · rintro ⟨l, r, h, hl⟩
        cases l with
        | nil => simp only [List.nil_append, List.cons.injEq, Prod.mk.injEq] at h; exact h.1.2
        | cons a l =>
          simp only [List.cons_append, List.cons.injEq] at h
          have := hl a List.mem_cons_self
          rw [← h.1] at this; cases this

/-- Everything a command can do: raise its first error, or have its effect; either way it completes. -/
theorem perform_cases {s t : State} {w : Word} {cs : List (Bool × ErrCode)} {eff : State} (h : s.perform w cs eff = .next t) :
    (∃ e, firstError cs = some e ∧ t = (s.raise e w).complete) ∨ (firstError cs = none ∧ t = eff.complete) := by
  unfold State.perform at h
  split at h <;> rename_i hf <;> cases h
  · exact .inl ⟨_, hf, rfl⟩
  · exact .inr ⟨hf, rfl⟩

theorem perform_of_none {s : State} {w : Word} {cs : List (Bool × ErrCode)} {eff : State} (h : firstError cs = none) :
    s.perform w cs eff = .next eff.complete := by
  unfold State.perform; rw [h]

theorem perform_of_some {s : State} {w : Word} {cs : List (Bool × ErrCode)} {eff : State} {e : ErrCode}
    (h : firstError cs = some e) : s.perform w cs eff = .next (s.raise e w).complete := by
  unfold State.perform; rw [h]

/-- The command word and the operand of a pending command are the pair it was issued with (R37). -/
theorem command_of_pending {s : State} {p : Pending} (h : s.pending = some p) (i : Instr) : s.command i = p := by
  unfold State.command; rw [h]; rfl

/-- The checks of a command, in order (R152). -/
def checksOf (s : State) : Instr → List (Bool × ErrCode)
  | .nop | .clear | .setfreq _ | .build | .flush | .decreset => []
  | .qleaves => qleavesChecks s
  | .qroot => qrootChecks s
  | .qnode idx sel => qnodeChecks idx sel s
  | .extract => extractChecks s
  | .qlen _ | .qbits _ _ => [staleCheck s]
  | .encode sym => encodeChecks sym s
  | .pack len bits => packChecks len bits
  | .decode nbits _ => decodeChecks nbits s

/-- The effect of a command, its completion apart. -/
def effectOf (s : State) : Instr → State
  | .nop => s
  | .clear => clearEffect s
  | .setfreq sym => setfreqEffect sym s
  | .build => buildEffect s
  | .qleaves => qleavesEffect s
  | .qroot => qrootEffect s
  | .qnode idx sel => qnodeEffect idx sel s
  | .extract => extractEffect s
  | .qlen sym => qlenEffect sym s
  | .qbits sym k => qbitsEffect sym k s
  | .encode sym => encodeEffect sym s
  | .pack len bits => packEffect len bits s
  | .flush => flushEffect s
  | .decode nbits byte => decodeEffect nbits byte s
  | .decreset => decresetEffect s

/-- Every command is its checks, then its effect. -/
theorem exec_eq_perform (i : Instr) (s : State) :
    exec i s = s.perform (s.commandWord i) (checksOf s i) (effectOf s i) := by
  cases i <;> rfl

/-- Everything `exec` can do. -/
theorem exec_cases {i : Instr} {s t : State} (h : exec i s = .next t) :
    (∃ e, firstError (checksOf s i) = some e ∧ t = (s.raise e (s.commandWord i)).complete) ∨
      (firstError (checksOf s i) = none ∧ t = (effectOf s i).complete) :=
  perform_cases (exec_eq_perform i s ▸ h)

/-! ### The core step and the machine's step -/

theorem oqDepth_sub : Config.oqDepth - Config.emitMax = Config.oqSlack := by simp [Config.oqDepth, Config.emitMax]

/-- The hold (R48). -/
theorem held_iff {s : State} {w : Word} :
    held s w = true ↔ isEmitting w = true ∧ Config.oqDepth < s.outq.length + Config.emitMax := by
  unfold held
  rw [oqDepth_sub, Bool.and_eq_true, decide_eq_true_eq]
  simp only [Config.oqDepth, Config.emitMax, Nat.add_lt_add_iff_right]

/-- A command is never held while the queue is empty. -/
theorem held_of_empty {s : State} (h : s.outq = []) (w : Word) : held s w = false := by
  rw [Bool.eq_false_iff, Ne, held_iff, h]; simp [Config.oqDepth, Config.emitMax]

theorem lockedOut_iff {s : State} {w : Word} : lockedOut s w = true ↔ s.errCode ≠ .none ∧ opField w ≠ 0x01#8 := by
  simp [lockedOut]

theorem issue_of_idle {s : State} (h : s.pending = none) (v : Word) :
    s.issue v = { s with pending := some ⟨v, s.arg⟩ } := by
  unfold State.issue; rw [h]

theorem issue_of_busy {s : State} {p : Pending} (h : s.pending = some p) (v : Word) : s.issue v = s.raise .overrun v := by
  unfold State.issue; rw [h]

@[simp] theorem held_setSched (s : State) (rest : List Event) (w : Word) : held (s.setSched rest) w = held s w := rfl

@[simp] theorem lockedOut_setSched (s : State) (rest : List Event) (w : Word) :
    lockedOut (s.setSched rest) w = lockedOut s w := rfl

/-- Everything the core step can do: idle, held, locked out, illegal, or the command decoded. -/
theorem coreStep_cases {s t : State} (h : coreStep s = .next t) :
    (s.pending = none ∧ t = s) ∨
    ∃ p, s.pending = some p ∧
      ((held s p.word = true ∧ t = s) ∨
       (held s p.word = false ∧ lockedOut s p.word = true ∧ t = s.complete) ∨
       (held s p.word = false ∧ lockedOut s p.word = false ∧
         ((∃ e, decode p.word = .error e ∧ t = (s.raise .illegalCmd p.word).complete) ∨
          (∃ i, decode p.word = .ok i ∧ exec i s = .next t)))) := by
  unfold coreStep at h
  split at h
  · cases h; exact .inl ⟨‹_›, rfl⟩
  · rename_i p hp
    refine .inr ⟨p, hp, ?_⟩
    split at h
    · cases h; exact .inl ⟨‹_›, rfl⟩
    · rename_i hh
      split at h
      · cases h; exact .inr (.inl ⟨by simpa using hh, ‹_›, rfl⟩)
      · rename_i hl
        refine .inr (.inr ⟨by simpa using hh, by simpa using hl, ?_⟩)
        unfold execute at h
        split at h
        · exact .inr ⟨_, ‹_›, h⟩
        · cases h; exact .inl ⟨_, ‹_›, rfl⟩

/-- Everything a step can do: with nothing scheduled a core step, else the event scheduled first. -/
theorem step_cases {s t : State} (h : step s = .next t) :
    (s.sched = [] ∧ coreStep s = .next t) ∨
    ∃ e rest, s.sched = e :: rest ∧ happen e (s.setSched rest) = .next t := by
  unfold step advance at h
  split at h
  · exact .inl ⟨‹_›, h⟩
  · exact .inr ⟨_, _, ‹_›, h⟩

/-- Where the core moves, the step is its step, the rest of the schedule left (R47, R54). -/
theorem step_of_coreMoves {s : State} {rest : List Event} (h : CoreMoves s rest) : step s = coreStep (s.setSched rest) := by
  rcases h with ⟨h, rfl⟩ | h
  · have hs : s.setSched [] = s := by rw [← h]; rfl
    rw [hs]; simp only [step, advance, h]
  · simp only [step, advance, h]; rfl

/-- What a read does to the state: nothing, a free value drawn, or a byte popped. -/
theorem regRead_state (s : State) (off : Nat) :
    (regRead s off).2 = s ∨ (regRead s off).2 = s.drawFree ∨ (off = 0x1C ∧ (regRead s off).2 = s.popOut) := by
  unfold regRead quietRead statusRead
  split <;> first | exact .inl rfl | exact .inr (.inr ⟨rfl, rfl⟩) | (split <;> [exact .inr (.inl rfl); exact .inl rfl])

/-- What a write does to the state: a command issued, ARG written, or nothing. -/
theorem regWrite_cases (s : State) (off : Nat) (v : Word) :
    (off = 0x04 ∧ regWrite s off v = s.issue v) ∨ (off = 0x08 ∧ regWrite s off v = s.setArg v) ∨
      (off ≠ 0x04 ∧ off ≠ 0x08 ∧ regWrite s off v = s) := by
  unfold regWrite
  split
  · exact .inl ⟨rfl, rfl⟩
  · exact .inr (.inl ⟨rfl, rfl⟩)
  · rename_i h₁ h₂; exact .inr (.inr ⟨fun h => h₁ h, fun h => h₂ h, rfl⟩)

/-- An admitted access reaches its offset in the window (R45). -/
theorem windowOffset_base {off : Nat} (h : off < 64) (h₄ : off % 4 = 0) : windowOffset (Config.base + off) 4 = some off := by
  unfold windowOffset
  rw [if_pos ⟨rfl, Nat.le_add_right .., by simpa [Config.window] using h, by simpa using h₄⟩]; simp

/-! ### Bit lists -/

@[simp] theorem length_lowBits {m : Nat} (v : BitVec m) (n : Nat) : (lowBits v n).length = n := by simp [lowBits]

theorem packBits_append (p : Packer) (a b : List Bool) : packBits p (a ++ b) = packBits (packBits p a) b :=
  List.foldl_append ..

theorem walkBits_append (arena : Vector Node 511) (root : NodeIdx) (x : Walk) (a b : List Bool) :
    walkBits arena root x (a ++ b) = walkBits arena root (walkBits arena root x a) b :=
  List.foldl_append ..

theorem bitsOf_lt (l : List Bool) : bitsOf l < 2 ^ l.length := by
  induction l with
  | nil => simp [bitsOf]
  | cons b l ih => simp only [bitsOf, List.length_cons, pow_succ]; cases b <;> simp <;> omega

/-! ### The forest -/

@[simp] theorem length_consume (f : List Node) (i : Nat) : (consume f i).length = f.length := by simp [consume]

@[simp] theorem length_merge (f : List Node) : (merge f).length = f.length + 1 := by simp [merge]

@[simp] theorem length_mergeTimes (k : Nat) (f : List Node) : (mergeTimes k f).length = f.length + k := by
  induction k generalizing f with
  | zero => rfl
  | succ k ih => rw [mergeTimes, ih, length_merge]; omega

theorem length_leavesOf_le (present : Vector Bool 256) (freq : Vector (BitVec 32) 256) :
    (leavesOf present freq).length ≤ 256 :=
  Nat.le_trans (List.length_filterMap_le ..) (by simp [symbols])

theorem length_forestOf (present : Vector Bool 256) (freq : Vector (BitVec 32) 256) :
    (forestOf present freq).length = 2 * (leavesOf present freq).length - 1 := by
  rw [forestOf, length_mergeTimes]; omega

/-! ### The host contract -/

/-- The four bytes of `le32(c)` put together again (R61, R65). -/
theorem join_le32 (c : BitVec 32) :
    c.extractLsb' 24 8 ++ c.extractLsb' 16 8 ++ c.extractLsb' 8 8 ++ c.extractLsb' 0 8 = c := by
  ext i hi
  simp only [BitVec.getElem_append, BitVec.getElem_extractLsb']
  split_ifs <;> (rw [← BitVec.getLsbD_eq_getElem]; congr 1; omega)

/-- A list too short for its entries gives none (R65, R66). -/
theorem takeEntries_of_short : ∀ (m : Nat) {body : List Byte}, body.length < 5 * m → takeEntries m body = none
  | 0, _, h => absurd h (by omega)
  | m + 1, body, h => by
    match body, h with
    | [], _ | [_], _ | [_, _], _ | [_, _, _], _ | [_, _, _, _], _ => rfl
    | _ :: _ :: _ :: _ :: _ :: rest, h =>
      simp only [takeEntries, takeEntries_of_short m (body := rest) (by simp only [List.length_cons] at h; omega), Option.map_none]

/-- The entries of a header are read back as they were written (R60, R64, R65). -/
theorem takeEntries_entries : ∀ (entries : List (Byte × BitVec 32)) (rest : List Byte),
    takeEntries entries.length (entries.flatMap (fun e => e.1 :: le32 e.2) ++ rest) = some (entries, rest)
  | [], _ => rfl
  | e :: es, rest => by
    have ih := takeEntries_entries es rest
    simp only [le32] at ih
    simp only [List.length_cons, List.flatMap_cons, le32, List.cons_append, List.nil_append, takeEntries, ih, Option.map_some,
      join_le32]

/-- The host's check of the entries' order is the strict order of the symbols (R66). -/
theorem ascending_iff (entries : List (Byte × BitVec 32)) :
    ascending entries = true ↔ (entries.map fun e => e.1.toNat).Pairwise (· < ·) := by
  rw [← List.isChain_iff_pairwise]
  induction entries with
  | nil => simp [ascending]
  | cons a rest ih =>
    cases rest with
    | nil => simp [ascending]
    | cons b rest =>
      simp only [ascending, Bool.and_eq_true, decide_eq_true_eq, List.map_cons, List.isChain_cons_cons, ih]

end Sys2Proof.Machine
end

