-- ==== Sys2Proof/Laws/PerInstr.lean ====
section
/-!
SUPPORT. The fields of a command word in format C (spec/30_encoding.md R71), and the family `OpField`: every command's encoding has
the OP value of its own row (R72, R74).
-/

namespace Sys2Proof

/-- Bit `j` of a command word: IMM below 16, A below 24, OP above (R71). -/
theorem getLsbD_formC (op a : BitVec 8) (imm : BitVec 16) (j : Nat) :
    (formC op a imm).getLsbD j =
      if j < 16 then imm.getLsbD j else if j < 24 then a.getLsbD (j - 16) else op.getLsbD (j - 24) := by
  refine (BitVec.getLsbD_append (x := op ++ a) (y := imm) (i := j)).trans ?_
  rw [BitVec.getLsbD_append]
  by_cases h : j < 16
  · simp [h]
  · by_cases h' : j < 24
    · simp [h, h', show j - 16 < 8 by omega]
    · simp [h, h', show ¬ (j - 16 < 8) by omega, show j - 16 - 8 = j - 24 by omega]

@[simp] theorem opField_formC (op a : BitVec 8) (imm : BitVec 16) : opField (formC op a imm) = op := by
  ext i h
  simp [opField, getLsbD_formC, show ¬ (24 + i < 16) by omega, BitVec.getLsbD_eq_getElem h]

@[simp] theorem aField_formC (op a : BitVec 8) (imm : BitVec 16) : aField (formC op a imm) = a := by
  ext i h
  simp [aField, getLsbD_formC, show 16 + i < 24 by omega, BitVec.getLsbD_eq_getElem h]

@[simp] theorem immField_formC (op a : BitVec 8) (imm : BitVec 16) : immField (formC op a imm) = imm := by
  ext i h
  simp [immField, getLsbD_formC, h]

end Sys2Proof

namespace Sys2Proof.Laws.OpField

/-- The OP value of a command's row (R72). -/
def opcode : Instr → BitVec 8
  | .nop => 0x00#8
  | .clear => 0x01#8
  | .setfreq _ => 0x02#8
  | .build => 0x10#8
  | .qleaves => 0x11#8
  | .qroot => 0x12#8
  | .qnode _ _ => 0x13#8
  | .extract => 0x20#8
  | .qlen _ => 0x21#8
  | .qbits _ _ => 0x22#8
  | .encode _ => 0x30#8
  | .pack _ _ => 0x31#8
  | .flush => 0x32#8
  | .decode _ _ => 0x40#8
  | .decreset => 0x41#8

/-- The encoding has the row's OP value. -/
def Statement (i : Instr) : Prop := opField (Sys2Proof.encode i) = opcode i

theorem nop : Statement .nop := opField_formC ..
theorem clear : Statement .clear := opField_formC ..
theorem setfreq (sym : Byte) : Statement (.setfreq sym) := opField_formC ..
theorem build : Statement .build := opField_formC ..
theorem qleaves : Statement .qleaves := opField_formC ..
theorem qroot : Statement .qroot := opField_formC ..
theorem qnode (idx : BitVec 9) (sel : BitVec 2) : Statement (.qnode idx sel) := opField_formC ..
theorem extract : Statement .extract := opField_formC ..
theorem qlen (sym : Byte) : Statement (.qlen sym) := opField_formC ..
theorem qbits (sym : Byte) (k : BitVec 3) : Statement (.qbits sym k) := opField_formC ..
theorem encode (sym : Byte) : Statement (.encode sym) := opField_formC ..
theorem pack (len : BitVec 8) (bits : BitVec 16) : Statement (.pack len bits) := opField_formC ..
theorem flush : Statement .flush := opField_formC ..
theorem decode (nbits : BitVec 8) (byte : Byte) : Statement (.decode nbits byte) := opField_formC ..
theorem decreset : Statement .decreset := opField_formC ..

end Sys2Proof.Laws.OpField
end

