-- ==== Sys2Proof/Tests/Slice0.lean ====
section
/-!
SUPPORT. Small tests: words of spec/30_encoding.md R72 and spec/95_test_vectors.md decode to their commands, ill-formed terms are told
apart, single commands give the vectors' results (expected values from the vectors, never from the model), and for every statement
with hypotheses concrete values meet them.
-/

namespace Sys2Proof.Tests
open Sys2Proof Sys2Proof.Machine

/-! ### Well-formedness: one ill-formed term for each check -/

theorem test_wf_sel : Instr.wellFormed (.qnode 0#9 3#2) = false := by decide
theorem test_wf_len : Instr.wellFormed (.pack 17#8 0#16) = false := by decide
theorem test_wf_bits : Instr.wellFormed (.pack 4#8 0x1000#16) = false := by decide
theorem test_wf_nbits_zero : Instr.wellFormed (.decode 0#8 0#8) = false := by decide
theorem test_wf_nbits_nine : Instr.wellFormed (.decode 9#8 0#8) = false := by decide
theorem test_wf_ok : Instr.wellFormed (.pack 12#8 0xABC#16) = true := by decide

/-! ### Decoding: one word of every row, written out from R72; the rejections of V-E2 to V-E19 -/

theorem test_decode_nop : decode 0x00000000#32 = .ok .nop := by decide
theorem test_decode_clear : decode 0x01000000#32 = .ok .clear := by decide
theorem test_decode_setfreq : decode 0x02610000#32 = .ok (.setfreq 0x61#8) := by decide
theorem test_decode_build : decode 0x10000000#32 = .ok .build := by decide
theorem test_decode_qleaves : decode 0x11000000#32 = .ok .qleaves := by decide
theorem test_decode_qroot : decode 0x12000000#32 = .ok .qroot := by decide
theorem test_decode_qnode : decode 0x13020105#32 = .ok (.qnode 0x105#9 2#2) := by decide
theorem test_decode_extract : decode 0x20000000#32 = .ok .extract := by decide
theorem test_decode_qlen : decode 0x217A0000#32 = .ok (.qlen 0x7A#8) := by decide
theorem test_decode_qbits : decode 0x22610007#32 = .ok (.qbits 0x61#8 7#3) := by decide
theorem test_decode_encode : decode 0x30630000#32 = .ok (.encode 0x63#8) := by decide
theorem test_decode_pack : decode 0x310C0ABC#32 = .ok (.pack 12#8 0xABC#16) := by decide
theorem test_decode_flush : decode 0x32000000#32 = .ok .flush := by decide
theorem test_decode_decode : decode 0x400500E8#32 = .ok (.decode 5#8 0xE8#8) := by decide
theorem test_decode_decreset : decode 0x41000000#32 = .ok .decreset := by decide
theorem test_reject_reserved :
    decode 0x00000001#32 = .error .reservedBit ∧ decode 0x0261ABCD#32 = .error .reservedBit ∧
    decode 0x13040000#32 = .error .reservedBit ∧ decode 0x13000200#32 = .error .reservedBit ∧
    decode 0x22610008#32 = .error .reservedBit ∧ decode 0x40080100#32 = .error .reservedBit := by decide
theorem test_reject_unassigned :
    decode 0x03000000#32 = .error .unassignedOp ∧ decode 0x50000000#32 = .error .unassignedOp ∧
    decode 0xFFFFFFFF#32 = .error .unassignedOp := by decide
theorem test_table_word : decodeTableWord 32 0x31FF0000 = some (.pack 0xFF#8 0#16) := by decide

/-! ### Small states -/

/-- The state a step leaves. -/
def after (r : Result) : State :=
  match r with
  | .next t => t
  | .fault _ => State.reset
  | .refused _ => State.reset

/-- After reset, a command word issued with operand `a`. -/
def issued (w a : Word) : State := { State.reset with pending := some ⟨w, a⟩ }

/-- The same during lockout. -/
def lockedIssued (w : Word) : State := { issued w 0#32 with errCode := .codesStale, errWord := 0x30610000#32 }

/-- The forest of V-T1 (a:1, b:2, c:4), as the vector's table gives it. -/
def abcForest : List Node :=
  [ ⟨.leaf, true, 0x61#8, 1#40, 0#9, 0#9⟩, ⟨.leaf, true, 0x62#8, 2#40, 0#9, 0#9⟩, ⟨.leaf, true, 0x63#8, 4#40, 0#9, 0#9⟩,
    ⟨.internal, true, 0#8, 3#40, 0#9, 1#9⟩, ⟨.internal, false, 0#8, 7#40, 3#9, 2#9⟩ ]

/-- The state after BUILD of V-T1. -/
def abc : State := State.reset.setForest abcForest 3

/-- The codes of V-T1 (R106): a = [0,0], b = [0,1], c = [1]; LASTBITS 2. -/
def abcCodes : State :=
  abc.setCodes
    (((CodeTable.empty.enter 0x61#8 [false, false]).enter 0x62#8 [false, true]).enter 0x63#8 [true]) 10

/-- The one-leaf tree of V-T6. -/
def oneLeaf : State := State.reset.setForest [⟨.leaf, false, 0x10#8, 5#40, 0#9, 0#9⟩] 1

/-- The empty tree of V-T7. -/
def noLeaf : State := State.reset.setForest [] 0

/-- Three entries of a frequency table. -/
def table3 (a b c : Byte × BitVec 32) : State :=
  ((State.reset.enterFreq a.1 a.2).enterFreq b.1 b.2).enterFreq c.1 c.2

/-! ### Single commands against the vectors of spec/95_test_vectors.md -/

/-- V-C6 and R85. -/
theorem test_nop : (after (step (lockedIssued 0x00000000#32))).errRegister = 3#32 := by decide
/-- V-C4: CLEAR ends the lockout and keeps OUTQ and ARG. -/
theorem test_clear :
    let t := after (exec .clear { lockedIssued 0x01000000#32 with outq := [0xF0#8], arg := 7#32 })
    t.errRegister = 0#32 ∧ t.errWord = 0#32 ∧ t.outq = [0xF0#8] ∧ t.arg = 7#32 := by decide
/-- V-R5: CLEAR with a reserved bit during lockout changes nothing. -/
theorem test_clear_reserved : (after (step (lockedIssued 0x01000001#32))).errRegister = 3#32 := by decide
/-- V-C1. -/
theorem test_setfreq :
    let t := after (step (issued 0x02610000#32 4#32))
    symGet t.present 0x61#8 = true ∧ symGet t.freq 0x61#8 = 4#32 := by decide
/-- V-C2: the tree is discarded, the count overwritten. -/
theorem test_setfreq_discards :
    let t := after (exec (.setfreq 0x61#8) { abcCodes with arg := 9#32 })
    t.statusWord = 0#32 ∧ t.decStat = 0#32 ∧ symGet t.freq 0x61#8 = 9#32 := by decide
/-- V-T1. -/
theorem test_build :
    let t := after (exec .build (table3 (0x61#8, 1#32) (0x62#8, 2#32) (0x63#8, 4#32)))
    t.forest = abcForest ∧ t.statusWord = 0x000A0302#32 ∧ t.decStat = 0x00010004#32 := by decide +kernel
/-- V-T2: leaf 0x00 before an internal node of equal weight. -/
theorem test_build_tie :
    let t := after (exec .build (table3 (0x00#8, 2#32) (0x01#8, 1#32) (0x02#8, 1#32)))
    (forestAt t.forest 4).left = 0#9 ∧ (forestAt t.forest 4).right = 3#9 := by decide +kernel
theorem test_qleaves : (after (exec .qleaves abc)).result = 2#32 := by decide
/-- V-T7. -/
theorem test_qleaves_empty : (after (exec .qleaves noLeaf)).errRegister = 1#32 := by decide
theorem test_qroot : (after (exec .qroot abc)).result = 4#32 := by decide
/-- V-R1. -/
theorem test_qroot_none : (after (exec .qroot State.reset)).errRegister = 2#32 := by decide
theorem test_qnode :
    (after (exec (.qnode 4#9 0#2) abc)).result = 0x10000403#32 ∧ (after (exec (.qnode 0#9 0#2) abc)).result = 0x0D840000#32 := by
  decide
/-- V-R10 and V-R7. -/
theorem test_qnode_errors :
    (after (exec (.qnode 0#9 3#2) State.reset)).errRegister = 7#32 ∧ (after (exec (.qnode 5#9 0#2) abc)).errRegister = 7#32 := by
  decide
/-- V-X9. -/
theorem test_extract :
    let t := after (exec .extract abc)
    t.statusWord = 0x000A0326#32 ∧ symGet t.codeBits 0x62#8 = 2#256 := by decide +kernel
theorem test_extract_none : (after (exec .extract State.reset)).errRegister = 2#32 := by decide
/-- V-X2 and V-X4. -/
theorem test_qlen :
    (after (exec (.qlen 0x62#8) abcCodes)).result = 0x80000002#32 ∧ (after (exec (.qlen 0x7A#8) abcCodes)).result = 0#32 := by
  decide
theorem test_qlen_stale : (after (exec (.qlen 0x61#8) abc)).errRegister = 3#32 := by decide
/-- V-X6. -/
theorem test_qbits : (after (exec (.qbits 0x62#8 0#3) abcCodes)).result = 2#32 := by decide
/-- Word 7 of a code with bit 254 set (V-T8). -/
theorem test_qbits_top :
    (after (exec (.qbits 0x01#8 7#3)
      { abcCodes with codeBits := symSet abcCodes.codeBits 0x01#8 (1#256 <<< 254) })).result = 0x40000000#32 := by decide
/-- V-P9 and V-P13. -/
theorem test_encode :
    (after (exec (.encode 0x63#8) abcCodes)).pkStat = 0x101#32 ∧ (after (exec (.encode 0x7A#8) abcCodes)).errRegister = 4#32 := by
  decide
/-- V-P10: the fifth ENCODE emits 0xE8. -/
theorem test_encode_emits :
    let t := after (exec (.encode 0x63#8) { abcCodes with pkAcc := 0x68#8, pkCnt := 7#3 })
    t.outq = [0xE8#8] ∧ t.pkStat = 0#32 := by decide
/-- V-P1. -/
theorem test_pack :
    let t := after (exec (.pack 12#8 0xABC#16) State.reset)
    t.outq = [0xBC#8] ∧ t.pkStat = 0x40A#32 := by decide
/-- V-P6 and V-P7. -/
theorem test_pack_errors :
    (after (exec (.pack 17#8 0xFFFF#16) State.reset)).errRegister = 7#32 ∧
    (after (exec (.pack 4#8 0x1000#16) State.reset)).errRegister = 7#32 := by decide
theorem test_flush :
    let t := after (exec .flush { State.reset with pkAcc := 0x0D#8, pkCnt := 4#3 })
    t.outq = [0x0D#8] ∧ t.pkStat = 0#32 := by decide
/-- V-P8. -/
theorem test_flush_empty : (after (exec .flush State.reset)).outq = [] := by decide
/-- V-D1. -/
theorem test_decode_walk :
    let t := after (exec (.decode 8#8 0xE8#8) abc)
    t.outq = [0x61#8, 0x62#8, 0x62#8, 0x63#8, 0x63#8] ∧ t.decStat = 0x00010004#32 := by decide +kernel
/-- V-D7 and V-D9. -/
theorem test_decode_ends :
    (after (exec (.decode 8#8 0x00#8) oneLeaf)).errRegister = 5#32 ∧
    (after (exec (.decode 5#8 0xE8#8) abc)).decStat = 0x00000003#32 := by decide +kernel
/-- V-D5. -/
theorem test_decreset : (after (exec .decreset { abc with decCur := 3#9 })).decStat = 0x00010004#32 := by decide
/-- V-R8: an overrun, and the pending BUILD then discarded. -/
theorem test_overrun :
    let t := regWrite (issued 0x10000000#32 0#32) 0x04 0x12000000#32
    t.errRegister = 8#32 ∧ t.errWord = 0x12000000#32 ∧ (after (coreStep t)).statusWord = 0x00000008#32 := by decide
/-- V-E2. -/
theorem test_illegal : (after (step (issued 0x00000001#32 0#32))).errRegister = 6#32 := by decide
/-- A table row's word runs as the first command after reset. -/
theorem test_fetch_word :
    step (State.reset.withFetchWord 32 0x310C0ABC) = exec (.pack 12#8 0xABC#16) (State.reset.withFetchWord 32 0x310C0ABC) := by
  rfl
/-- V-S4: the container of aaaabbbb. -/
theorem test_container :
    (hostEncode State.reset (List.replicate 4 0x61#8 ++ List.replicate 4 0x62#8)).map (·.bytes) =
      some [0x01#8, 0x61#8, 4#8, 0#8, 0#8, 0#8, 0x62#8, 4#8, 0#8, 0#8, 0#8, 0#8, 0xF0#8] := by decide +kernel
/-- V-H3, decoded. -/
theorem test_container_decodes :
    (match hostDecode State.reset
        [0x01#8, 0x61#8, 4#8, 0#8, 0#8, 0#8, 0x62#8, 4#8, 0#8, 0#8, 0#8, 0#8, 0xF0#8] with
      | .ok r => r.bytes
      | .error _ => []) = List.replicate 4 0x61#8 ++ List.replicate 4 0x62#8 := by decide +kernel

/-- R65, R66: a last-byte bit count of 8 is a FormatError after BUILD: the tree stands, and what CLEAR's wait drained is not
withdrawn. -/
theorem test_format_error_keeps :
    (match hostDecode { State.reset with outq := [0x55#8] }
        [0x01#8, 0x61#8, 4#8, 0#8, 0#8, 0#8, 0x62#8, 4#8, 0#8, 0#8, 0#8, 8#8, 0xF0#8] with
      | .ok _ => none
      | .error e => some (e.bytes, e.core.nleaf, e.core.treeValid)) = some ([0x55#8], 2#9, true) := by decide +kernel

end Sys2Proof.Tests
end

