-- ==== Sys2Proof/Tests/Witnesses.lean ====
section
/-!
SUPPORT. For every statement with hypotheses, concrete values that meet all of them together, clause by clause and at the boundary of
each range. A witness is named after its statement; where it serves several, its comment names them.
-/

namespace Sys2Proof.Tests
open Sys2Proof Sys2Proof.Machine

/-! ### The forest of V-T1 is a built forest, and its states meet the invariant -/

/-- BuildMakesAForest's conclusion; PathsDescendFromTheRoot, CodesArePrefixFree (leaves 0 and 1), CodeLengthsFillTheTree. -/
theorem witness_shape : ForestShape abcForest 3 where
  count := rfl
  bound := by decide
  leaf := by decide
  ascending := by
    intro i j h₁ h₂
    interval_cases j <;> interval_cases i <;> decide
  internal := by
    intro i h₁ h₂
    replace h₂ : i < 5 := h₂
    interval_cases i <;> decide
  consumed := by
    intro i h
    replace h : i < 4 := Nat.lt_of_succ_lt_succ h
    interval_cases i <;> rfl
  root := fun _ => rfl
  parent := by
    intro c h
    replace h : c < 4 := Nat.lt_of_succ_lt_succ h
    have parents : ∀ q, q < 5 → ∀ d, ParentOf abcForest q d →
        (q = 3 ∧ (d = 0 ∨ d = 1)) ∨ (q = 4 ∧ (d = 3 ∨ d = 2)) := by
      intro q hq d hd
      obtain ⟨-, hk, hc⟩ := hd
      interval_cases q <;> cases hk
      · exact .inl ⟨rfl, hc.imp Eq.symm Eq.symm⟩
      · exact .inr ⟨rfl, hc.imp Eq.symm Eq.symm⟩
    have unique : ∀ p, ParentOf abcForest p c → ∀ q, ParentOf abcForest q c → q = p := by
      intro p hp q hq
      have := parents p hp.1 c hp
      have := parents q hq.1 c hq
      omega
    interval_cases c
    · exact ⟨3, ⟨by decide, rfl, .inl rfl⟩, unique 3 ⟨by decide, rfl, .inl rfl⟩⟩
    · exact ⟨3, ⟨by decide, rfl, .inr rfl⟩, unique 3 ⟨by decide, rfl, .inr rfl⟩⟩
    · exact ⟨4, ⟨by decide, rfl, .inr rfl⟩, unique 4 ⟨by decide, rfl, .inr rfl⟩⟩
    · exact ⟨4, ⟨by decide, rfl, .inl rfl⟩, unique 4 ⟨by decide, rfl, .inl rfl⟩⟩
  weight := by
    intro i h₁ h₂
    replace h₂ : i < 5 := h₂
    interval_cases i <;> rfl

theorem abc_forest : abc.forest = abcForest := forest_arenaOf State.reset 3 (by decide)

theorem abcCodes_forest : abcCodes.forest = abcForest := abc_forest

/-- StepKeepsTheForest, StepKeepsTheCursor, CodesHaveNoBitsAboveTheirLength, DecodingCodesGivesTheSymbols. -/
theorem witness_tree : TreeOk abcCodes := by
  refine ⟨by decide, fun i h => ?_, fun h => ?_, fun _ => ?_⟩
  · replace h : 5 ≤ i := h
    show nodeAt (arenaOf abcForest) i = Node.empty
    rw [nodeAt_arenaOf (by decide), forestAt, List.getElem?_eq_none (by simpa [abcForest] using h)]; rfl
  · cases h
  · rw [abcCodes_forest]; exact witness_shape

/-- StepKeepsTheCursor. -/
theorem witness_cursor : CursorOk abcCodes := by
  unfold CursorOk; decide

/-- StepKeepsTheCodeTable, CodesHaveNoBitsAboveTheirLength, DecodingCodesGivesTheSymbols, QlenReportsTheLength (an absent symbol). -/
theorem witness_codes : CodesOk abcCodes := by
  refine ⟨fun h => ?_, fun _ => ⟨rfl, by decide, ?_, ?_⟩⟩
  · cases h
  · decide +kernel
  · decide +kernel

/-- StepKeepsThePackerAndTheErrors, StepKeepsTheQueueBound, and every premise of an invariant at once. -/
theorem witness_inv : Inv abcCodes where
  packer := by unfold PackerOk; decide
  queue := Nat.zero_le _
  errors := fun _ => rfl
  tree := witness_tree
  cursor := witness_cursor
  codes := witness_codes

/-- The steps of the invariants' statements exist: a command, and the reset input. -/
theorem witness_step :
    (∃ t, step { abcCodes with pending := some ⟨0x30630000#32, 0#32⟩ } = .next t) ∧
    ∃ t, step { abcCodes with sched := [.reset] } = .next t := by
  refine ⟨⟨_, rfl⟩, ⟨_, rfl⟩⟩

/-! ### Encoding -/

/-- EncodeOfDecodeIsTheWord. -/
theorem witness_decodes : decode 0x13020105#32 = .ok (.qnode 0x105#9 2#2) := by decide

/-- IllegalWordsRaiseIllegalCmd: the ends of each range of unassigned OP values. -/
theorem witness_unassigned :
    opField 0x03000000#32 = 0x03#8 ∧ opField 0x0F000000#32 = 0x0F#8 ∧ opField 0x14000000#32 = 0x14#8 ∧
    opField 0x1F000000#32 = 0x1F#8 ∧ opField 0x23000000#32 = 0x23#8 ∧ opField 0x2F000000#32 = 0x2F#8 ∧
    opField 0x33000000#32 = 0x33#8 ∧ opField 0x3F000000#32 = 0x3F#8 ∧ opField 0x42000000#32 = 0x42#8 ∧
    opField 0xFFFFFFFF#32 = 0xFF#8 := by decide

/-- IllegalWordsRaiseIllegalCmd: a reserved bit of the first row and of the QNODE row. -/
theorem witness_reserved :
    (∃ r ∈ opcodeTable, opField 0x00000001#32 = opField r.value ∧ 0x00000001#32 &&& r.mask ≠ r.value) ∧
    ∃ r ∈ opcodeTable, opField 0x13040000#32 = opField r.value ∧ 0x13040000#32 &&& r.mask ≠ r.value :=
  ⟨⟨opcodeTable[0], List.getElem_mem _, by decide, by decide⟩, ⟨opcodeTable[6], List.getElem_mem _, by decide, by decide⟩⟩

/-- IllegalWordsRaiseIllegalCmd: the step. -/
theorem witness_illegal_step :
    let s := issued 0xFFFFFFFF#32 0#32
    s.sched = [] ∧ decode 0xFFFFFFFF#32 = .error .unassignedOp ∧ held s 0xFFFFFFFF#32 = false ∧ s.errCode = .none := by
  decide

/-- The command rules' encoding clauses: a word with each OP value, and one with a reserved bit. -/
theorem witness_ops :
    opField 0x00000001#32 = 0x00#8 ∧ opField 0x01000000#32 = 0x01#8 ∧ opField 0x02FF0000#32 = 0x02#8 ∧
    opField 0x10000000#32 = 0x10#8 ∧ opField 0x11000000#32 = 0x11#8 ∧ opField 0x12000001#32 = 0x12#8 ∧
    opField 0x1303FE00#32 = 0x13#8 ∧ opField 0x20000000#32 = 0x20#8 ∧ opField 0x2161ABCD#32 = 0x21#8 ∧
    opField 0x22610008#32 = 0x22#8 ∧ opField 0x30000000#32 = 0x30#8 ∧ opField 0x31FFFFFF#32 = 0x31#8 ∧
    opField 0x32000000#32 = 0x32#8 ∧ opField 0x40080100#32 = 0x40#8 ∧ opField 0x41000000#32 = 0x41#8 := by decide

/-! ### The core step, the hold and the lockout -/

/-- Every premise that the core moves (IllegalWordsRaiseIllegalCmd, LockoutDiscardsAllButClear, EmittingCommandsWaitForRoom,
NopDoesNothing, ClearGivesTheClearedState): with nothing scheduled, and with a core step and a host access scheduled; the second form
changes nothing those statements' other premises speak of. -/
theorem witness_core_moves (s : State) (h : s.sched = []) :
    CoreMoves s [] ∧
    (let t := s.setSched [.core, .hostRead Config.base 4]
     CoreMoves t [.hostRead Config.base 4] ∧ t.pending = s.pending ∧ t.errCode = s.errCode ∧ t.outq = s.outq ∧
       ∀ w, held t w = held s w) :=
  ⟨.inl ⟨h, rfl⟩, .inr rfl, rfl, rfl, rfl, fun _ => rfl⟩

/-- StepRunsTheDecodedCommand, both forms. -/
theorem witness_runs :
    let s := issued 0x310C0ABC#32 0#32
    decode 0x310C0ABC#32 = .ok (.pack 12#8 0xABC#16) ∧ held s 0x310C0ABC#32 = false ∧ lockedOut s 0x310C0ABC#32 = false ∧
    s.sched = [] ∧ (s.setSched [.core]).sched = [.core] := by decide

/-- LockoutDiscardsAllButClear: another command, CLEAR, and CLEAR with a reserved bit; ClearGivesTheClearedState's lockout clause. -/
theorem witness_lockout :
    (let s := lockedIssued 0x10000000#32
     s.errCode ≠ .none ∧ held s 0x10000000#32 = false ∧ opField 0x10000000#32 ≠ 0x01#8) ∧
    (let s := lockedIssued 0x01000000#32
     s.sched = [] ∧ s.pending = some ⟨0x01000000#32, 0#32⟩ ∧ s.errCode ≠ .none ∧ held s 0x01000000#32 = false) ∧
    (let s := lockedIssued 0x01000001#32
     s.sched = [] ∧ s.errCode ≠ .none ∧ held s 0x01000001#32 = false ∧ opField 0x01000001#32 = 0x01#8) := by decide

/-- A FLUSH pending and `n` bytes in the queue. -/
def waiting (n : Nat) : State := { issued 0x32000000#32 0#32 with outq := List.replicate n 0#8 }

/-- EmittingCommandsWaitForRoom: a queue one byte over the limit, one exactly at it, a command that never waits, and no command. -/
theorem witness_hold :
    ((waiting (Config.oqDepth - 31)).sched = [] ∧ (waiting (Config.oqDepth - 31)).pending = some ⟨0x32000000#32, 0#32⟩ ∧
      opField 0x32000000#32 ∈ [0x30#8, 0x31#8, 0x32#8, 0x40#8] ∧
      Config.oqDepth - 32 < (waiting (Config.oqDepth - 31)).outq.length) ∧
    (waiting (Config.oqDepth - 32)).outq.length ≤ Config.oqDepth - 32 ∧
    (opField 0x10000000#32 ∉ [0x30#8, 0x31#8, 0x32#8, 0x40#8]) ∧
    State.reset.sched = [] ∧ State.reset.pending = none := by
  refine ⟨⟨rfl, rfl, by decide, ?_⟩, ?_, by decide, rfl, rfl⟩ <;> simp [waiting, Config.oqDepth]

/-- ErrorsArePrecise: an error recorded, and one during lockout. -/
theorem witness_error :
    (∃ t, exec .qroot (issued 0x12000000#32 0#32) = .next t ∧ t.errCode ≠ (issued 0x12000000#32 0#32).errCode) ∧
    (∃ t, exec .qroot (lockedIssued 0x12000000#32) = .next t) ∧ (lockedIssued 0x12000000#32).errCode ≠ .none :=
  ⟨⟨_, rfl, by decide⟩, ⟨_, rfl⟩, by decide⟩

/-- OnlyClearOrResetEndsTheLockout: by CLEAR, and by the reset input. -/
theorem witness_recovery :
    (∃ t, step (lockedIssued 0x01000000#32) = .next t ∧ t.errCode ≠ (lockedIssued 0x01000000#32).errCode) ∧
    ∃ t, step ((lockedIssued 0x10000000#32).setSched [.reset]) = .next t ∧ t.errCode ≠ (lockedIssued 0x10000000#32).errCode :=
  ⟨⟨_, rfl, by decide⟩, ⟨_, rfl, by decide⟩⟩

/-- OnlyUnadmittedAccessesAreRefused: a narrow access, a misaligned one, and one just past the window are not admitted. -/
theorem witness_unadmitted :
    ¬ Admitted Config.base 2 ∧ ¬ Admitted (Config.base + 1) 4 ∧ ¬ Admitted (Config.base + 0x40) 4 := by
  refine ⟨fun h => absurd h.1 (by decide), ?_, ?_⟩
  · rintro ⟨-, off, h, h₁, h₂⟩; omega
  · rintro ⟨-, off, h, h₁, h₂⟩; omega

/-- AdmittedRunsNeverStop: the first and the last register offset, a core step and the reset input. -/
theorem witness_host :
    HostOk { State.reset with
      sched := [.hostWrite (Config.base + 0x04) 4 0#32, .core, .hostRead (Config.base + 0x3C) 4, .reset,
        .hostRead (Config.base + 0x00) 4] } := by
  intro e he
  have hb := windowOffset_base (off := 0) (by decide) (by decide)
  rw [Nat.add_zero] at hb
  fin_cases he <;> simp [windowOffset_base, hb]

/-! ### Reset and the window -/

/-- ResetInputGivesTheResetState, with a command pending and unread output. -/
theorem witness_reset :
    ({ issued 0x10000000#32 0#32 with outq := [1#8], sched := [.reset, .core] } : State).sched = [.reset, .core] := rfl

/-- IdleReadsReturnTheRegisters: an error recorded, and none. -/
theorem witness_error_codes :
    ({ State.reset with errCode := .overrun } : State).pending = none ∧
    ({ State.reset with errCode := .overrun } : State).errCode = .overrun ∧ State.reset.errCode = .none := by decide

/-- StatusShowsItsFields and BusyReadsAreUnspecified (a command pending, nothing pending), IdleReadsReturnTheRegisters (nothing
pending). -/
theorem witness_busy : abcCodes.pending = none ∧ (issued 0x10000000#32 5#32).pending = some ⟨0x10000000#32, 5#32⟩ := by decide

/-- OutdataReadsAndPops: a byte and an empty queue. -/
theorem witness_outq :
    ({ State.reset with outq := [0xF0#8] } : State).outq = 0xF0#8 :: [] ∧ State.reset.outq = [] := ⟨rfl, rfl⟩

/-- CmdWriteIssuesOrOverruns: idle, busy without an error, busy with one; ArgWritesDoNotReachAnIssuedCommand and
NopDoesNothing. -/
theorem witness_issue :
    State.reset.pending = none ∧ (issued 0x00000000#32 5#32).pending = some ⟨0x00000000#32, 5#32⟩ ∧
    (issued 0x00000000#32 5#32).errCode = .none ∧ (issued 0x00000000#32 5#32).sched = [] ∧
    (lockedIssued 0x10000000#32).pending ≠ none ∧ (lockedIssued 0x10000000#32).errCode ≠ .none := by decide

/-- AdmittedAccessesReachTheirRegister: the first and the last offset. -/
theorem witness_offsets : (0x00 < 64 ∧ 0x00 % 4 = 0) ∧ (0x3C < 64 ∧ 0x3C % 4 = 0) := by decide

/-- AdmittedAccessesReachTheirRegister: the events. -/
theorem witness_events :
    (State.reset.setSched [.hostRead (Config.base + 0x10) 4]).sched = .hostRead (Config.base + 0x10) 4 :: [] ∧
    (State.reset.setSched [.hostWrite (Config.base + 0x04) 4 0#32]).sched =
      .hostWrite (Config.base + 0x04) 4 0#32 :: [] := ⟨rfl, rfl⟩

/-- SetfreqEntersTheCount: the last symbol, another one, a count of 0. -/
theorem witness_setfreq :
    (issued 0x02FF0000#32 0#32).pending = some ⟨0x02FF0000#32, 0#32⟩ ∧ (0x00#8 : Byte) ≠ 0xFF#8 := by decide

/-! ### The tree -/

/-- ComparatorIsAStrictTotalOrder: each clause, on nodes of V-T1, and on leaf 0x00 beside an internal node of equal weight. -/
theorem witness_comparator :
    let a : Node := ⟨.leaf, false, 0x61#8, 1#40, 0#9, 0#9⟩
    let b : Node := ⟨.leaf, false, 0x62#8, 1#40, 0#9, 0#9⟩
    let c : Node := ⟨.leaf, true, 0x63#8, 2#40, 0#9, 0#9⟩
    let d : Node := ⟨.leaf, false, 0x00#8, 1#40, 0#9, 0#9⟩
    let i : Node := ⟨.internal, false, 0x00#8, 1#40, 0#9, 1#9⟩
    (nodeLess (0, a) (1, b) = true ∧ nodeLess (1, b) (2, c) = true) ∧ a.consumed = false ∧ c.consumed = true ∧
    (a.consumed = i.consumed ∧ a.weight = i.weight ∧ i.kind = .internal ∧ a.kind = .leaf ∧ a.symbol ≠ 0#8) ∧
    a.symbol.toNat < b.symbol.toNat ∧ (symkey d = symkey i ∧ d.weight = i.weight) ∧
    ({ a with weight := 0#40 } : Node).weight.toNat < a.weight.toNat := by decide

/-- ScanFindsTheLeastNode. -/
theorem witness_scan : abcForest ≠ [] ∧ 4 < abcForest.length ∧ (forestAt abcForest 4).consumed = false := by decide

/-- BuildMakesAForest, BuildJoinsTheTwoLeastNodes and InternalWeightsDoNotDecrease: a BUILD that makes the internal nodes 3 and 4. -/
theorem witness_build :
    ∃ t, exec .build (table3 (0x61#8, 1#32) (0x62#8, 2#32) (0x63#8, 4#32)) = .next t ∧ t.forest = abcForest ∧
      t.nleaf.toNat ≤ 3 ∧ 3 ≤ 4 ∧ 4 < t.ncount.toNat :=
  ⟨after (exec .build (table3 (0x61#8, 1#32) (0x62#8, 2#32) (0x63#8, 4#32))), rfl, by decide +kernel⟩

/-- BuildJoinsTheTwoLeastNodes: when node 3 joined leaves 0 and 1, leaf 2 had no parent yet. -/
theorem witness_unjoined :
    2 < 3 ∧ 2 ≠ (forestAt abcForest 3).left.toNat ∧ 2 ≠ (forestAt abcForest 3).right.toNat ∧
    ∀ p, p ≤ 3 → ¬ ParentOf abcForest p 2 := by
  refine ⟨by decide, by decide, by decide, fun p hp => ?_⟩
  unfold ParentOf
  interval_cases p <;> decide

/-- The tree commands: no tree, an empty tree, a one-leaf tree, a tree (QleavesReportsLeavesMinusOne, QrootReportsTheRootIndex,
ExtractFillsTheCodeTable, DecodeTrapsOrCompletes, DecodeWalksBitByBit, DecresetGoesToTheRoot). -/
theorem witness_trees :
    State.reset.treeValid = false ∧
    (noLeaf.treeValid = true ∧ noLeaf.nleaf.toNat = 0 ∧ noLeaf.ncount.toNat = 0) ∧
    (oneLeaf.treeValid = true ∧ oneLeaf.nleaf.toNat = 1 ∧ oneLeaf.ncount.toNat ≠ 0) ∧
    (abc.treeValid = true ∧ abc.nleaf.toNat ≠ 0 ∧ abc.nleaf.toNat ≠ 1 ∧ 0 < abc.ncount.toNat) := by decide

/-- ExtractFillsTheCodeTable: the premise about the forest. -/
theorem witness_extract : ForestShape abc.forest abc.nleaf.toNat := by
  rw [abc_forest]; exact witness_shape

/-- QnodeReportsTheFieldGroup: each kind of entry. -/
theorem witness_kinds :
    (nodeAt abc.node 5).kind = .empty ∧ (nodeAt abc.node 0).kind = .leaf ∧ (nodeAt abc.node 4).kind = .internal := by
  refine ⟨?_, ?_, ?_⟩ <;> decide +kernel

/-- QnodeReportsTheFieldGroup: the selectors, the last entry and the first index past it. -/
theorem witness_qnode :
    (3#2 = (3#2 : BitVec 2)) ∧ (2#2 : BitVec 2) ≠ 3#2 ∧ abc.ncount.toNat ≤ (5#9 : BitVec 9).toNat ∧
    (4#9 : BitVec 9).toNat < abc.ncount.toNat := by decide

/-- PathsDescendFromTheRoot: the internal nodes; CodesArePrefixFree: two leaves; CodeLengthsFillTheTree: a leaf. -/
theorem witness_paths : 3 ≤ 4 ∧ 4 < abcForest.length ∧ 0 < 3 ∧ 2 < 3 ∧ 0 ≠ 2 ∧ 1 ≤ 3 := by decide

/-! ### Codes, packer, unpacker -/

/-- QlenReportsTheLength, QbitsReportsAWordOfTheCode, EncodeAppendsTheCode: stale codes, a coded symbol, an absent one. -/
theorem witness_code_use :
    abc.codesValid = false ∧ abcCodes.codesValid = true ∧ symGet abcCodes.codeValid 0x61#8 = true ∧
    symGet abcCodes.codeValid 0x7A#8 = false := by decide

/-- EncodeAppendsTheCode, PackAppendsItsBits, FlushEmitsThePartialByte: a packer that keeps its invariant, empty and at 7 bits. -/
theorem witness_packer :
    PackerOk State.reset ∧ State.reset.pkCnt.toNat = 0 ∧ PackerOk { abcCodes with pkAcc := 0x7F#8, pkCnt := 7#3 } ∧
    0 < ({ abcCodes with pkAcc := 0x7F#8, pkCnt := 7#3 } : State).pkCnt.toNat := by
  unfold PackerOk; decide

/-- PackAppendsItsBits: 17 bits; a bit at the length; the longest and the shortest operands in range. -/
theorem witness_pack :
    16 < (17#8 : BitVec 8).toNat ∧ ((4#8 : BitVec 8).toNat ≤ 16 ∧ 2 ^ (4#8 : BitVec 8).toNat ≤ (0x10#16 : BitVec 16).toNat) ∧
    ((16#8 : BitVec 8).toNat ≤ 16 ∧ (0xFFFF#16 : BitVec 16).toNat < 2 ^ (16#8 : BitVec 8).toNat) ∧
    ((0#8 : BitVec 8).toNat ≤ 16 ∧ (0#16 : BitVec 16).toNat < 2 ^ (0#8 : BitVec 8).toNat) := by decide

/-- PackedStreamIsTheConcatenation: an ENCODE and a PACK from an empty packer. -/
theorem witness_stream :
    PackerOk abcCodes ∧ abcCodes.pkCnt = 0#3 ∧ Packs abcCodes (.encode 0x62#8) [false, true] ∧
    Packs abcCodes (.pack 3#8 5#16) [true, false, true] :=
  ⟨witness_inv.packer, rfl, .inl ⟨_, rfl, by decide, by decide, by decide⟩, .inr ⟨_, _, rfl, by decide, by decide⟩⟩

/-- DecodeTrapsOrCompletes: 0 bits, 9 bits, 1 and 8 bits. -/
theorem witness_nbits :
    (0#8 : BitVec 8).toNat = 0 ∧ 8 < (9#8 : BitVec 8).toNat ∧ (1 ≤ (1#8 : BitVec 8).toNat ∧ (1#8 : BitVec 8).toNat ≤ 8) ∧
    (1 ≤ (8#8 : BitVec 8).toNat ∧ (8#8 : BitVec 8).toNat ≤ 8) := by decide

/-- DecodeWalksBitByBit: from the root of V-T1 a 0 leads to an internal node and a 1 to a leaf. -/
theorem witness_edges :
    (nodeAt abc.node (nodeAt abc.node abc.decCur.toNat).left.toNat).kind ≠ .leaf ∧
    (nodeAt abc.node (nodeAt abc.node abc.decCur.toNat).right.toNat).kind = .leaf := by decide

/-- DecodeWalksBitByBit: 1 + 7 bits. -/
theorem witness_split :
    1 ≤ (1#8 : BitVec 8).toNat ∧ 1 ≤ (7#8 : BitVec 8).toNat ∧ (1#8 : BitVec 8).toNat + (7#8 : BitVec 8).toNat ≤ 8 ∧
    ∃ t, exec (.decode 1#8 0xE8#8) abc = .next t := ⟨by decide, by decide, by decide, _, rfl⟩

/-- DecodingCodesGivesTheSymbols: the state of V-T1 with its codes, and two symbols. -/
theorem witness_decoding :
    abcCodes.codesValid = true ∧ 2 ≤ abcCodes.nleaf.toNat ∧ abcCodes.decCur = rootIdx abcCodes.ncount ∧
    abcCodes.pending = none ∧ ∀ x ∈ [0x61#8, 0x63#8], symGet abcCodes.codeValid x = true := by decide

/-- CommandsEmitWithinTheirBounds, EachStateIsWrittenByItsOwnCommands: a command of each bound completes. -/
theorem witness_completes :
    (∃ t, exec (.encode 0x61#8) abcCodes = .next t) ∧ (∃ t, exec (.pack 16#8 0xFFFF#16) abcCodes = .next t) ∧
    (∃ t, exec .flush abcCodes = .next t) ∧ (∃ t, exec (.decode 8#8 0xFF#8) abcCodes = .next t) ∧
    ∃ t, exec .nop abcCodes = .next t := ⟨⟨_, rfl⟩, ⟨_, rfl⟩, ⟨_, rfl⟩, ⟨_, rfl⟩, ⟨_, rfl⟩⟩

/-! ### The host contract -/

/-- SmallContainers: the least and the greatest count; HostDecodeOfHostEncodeIsTheInput: an input; MalformedHeadersAreFormatErrors: a
header cut inside its entries. -/
theorem witness_containers :
    (1 ≤ 1 ∧ 1 < 2 ^ 32) ∧ (1 ≤ 2 ^ 32 - 1 ∧ 2 ^ 32 - 1 < 2 ^ 32) ∧
    ([0x04#8] : List Byte).length < 5 * ((0x01#8 : Byte).toNat + 1) := by
  decide

/-- MalformedHeadersAreFormatErrors: two entries out of order and two in order; a last-byte bit count missing, above 7, and not 0 with
no payload. -/
theorem witness_headers :
    let bad : List (Byte × BitVec 32) := [(0x62#8, 1#32), (0x61#8, 1#32)]
    let good : List (Byte × BitVec 32) := [(0x61#8, 1#32), (0x62#8, 1#32)]
    let malformed := fun rest : List Byte =>
      rest = [] ∨ ∃ k payload, rest = k :: payload ∧ (7 < k.toNat ∨ (payload = [] ∧ k ≠ 0#8))
    bad.length = (0x01#8 : Byte).toNat + 1 ∧ ¬ (bad.map fun e => e.1.toNat).Pairwise (· < ·) ∧
    good.length = (0x01#8 : Byte).toNat + 1 ∧ (good.map fun e => e.1.toNat).Pairwise (· < ·) ∧ 1 ≤ (0x01#8 : Byte).toNat ∧
    malformed [] ∧ malformed [8#8, 0xFF#8] ∧ malformed [1#8] :=
  ⟨by decide, by decide, by decide, by decide, by decide, .inl rfl, .inr ⟨_, _, rfl, .inl (by decide)⟩,
    .inr ⟨_, _, rfl, .inr ⟨rfl, by decide⟩⟩⟩

theorem witness_input : ∀ b, ([0x61#8, 0x62#8, 0x61#8] : List Byte).count b < 2 ^ 32 := fun b =>
  Nat.lt_of_le_of_lt List.count_le_length (by decide)

end Sys2Proof.Tests
end

section
/-!
PROOFS. What one step of the machine can do, told once (`StepTo`), and how an invariant of the packer, the forest, the cursor and the
code table follows from what the commands' effects do to it (`step_keeps_tables`).
-/

namespace Sys2Proof.Machine

/-! ### What a step can do -/

/-- Everything one step can do to a state whose next event is already taken from the schedule (R46, R47, R153, R154, R180). -/
inductive StepTo (s : State) : State → Prop
  /-- Nothing is pending, or the pending command is held. -/
  | idle : StepTo s s
  /-- A command locked out. -/
  | discards {p : Pending} (hp : s.pending = some p) (hl : lockedOut s p.word = true) : StepTo s s.complete
  /-- A command, or a word that spells none, raises an error. -/
  | raises {p : Pending} {e : ErrCode} (hp : s.pending = some p) (hl : lockedOut s p.word = false) (he : e ≠ .none) :
      StepTo s (s.raise e p.word).complete
  /-- A command has its effect. -/
  | runs {p : Pending} {i : Instr} (hp : s.pending = some p) (hh : held s p.word = false) (hl : lockedOut s p.word = false)
      (hd : decode p.word = .ok i) (hc : firstError (checksOf s i) = none) : StepTo s (effectOf s i).complete
  /-- The reset input. -/
  | resets : StepTo s s.resetInput
  /-- A host read. -/
  | reads {r : State} (hr : r = s ∨ r = s.drawFree ∨ r = s.popOut) (v : Word) : StepTo s (r.observe v)
  /-- A host write to CMD. -/
  | issues (v : Word) : StepTo s (s.issue v)
  /-- A host write to ARG. -/
  | setsArg (v : Word) : StepTo s (s.setArg v)

/-- No check of a command raises the code 0. -/
theorem firstError_checksOf_ne_none {s : State} {i : Instr} {e : ErrCode} (h : firstError (checksOf s i) = some e) :
    e ≠ .none := by
  have hall : ∀ c ∈ checksOf s i, c.2 ≠ .none := by
    cases i <;>
      simp [checksOf, qleavesChecks, qrootChecks, qnodeChecks, extractChecks, staleCheck, encodeChecks, packChecks, decodeChecks]
  obtain ⟨l, r, hlr, -⟩ := firstError_eq_some.mp h
  exact hall (true, e) (by simp [hlr])

theorem coreStep_stepTo {s t : State} (h : coreStep s = .next t) : StepTo s t := by
  obtain ⟨-, rfl⟩ | ⟨p, hp, ⟨-, rfl⟩ | ⟨-, hl, rfl⟩ | ⟨hh, hl, ⟨e, -, rfl⟩ | ⟨i, hd, hi⟩⟩⟩ := coreStep_cases h
  · exact .idle
  · exact .idle
  · exact .discards hp hl
  · exact .raises hp hl (by decide)
  · obtain ⟨e, he, rfl⟩ | ⟨hc, rfl⟩ := exec_cases hi
    · rw [State.commandWord, command_of_pending hp]
      exact .raises hp hl (firstError_checksOf_ne_none he)
    · exact .runs hp hh hl hd hc

theorem happen_stepTo {e : Event} {s t : State} (h : happen e s = .next t) : StepTo s t := by
  cases e with
  | core => exact coreStep_stepTo h
  | reset => cases h; exact .resets
  | hostRead addr size =>
    simp only [happen, hostRead] at h
    split at h <;> cases h
    next off _ => exact .reads ((regRead_state s off).imp_right (Or.imp_right And.right)) _
  | hostWrite addr size v =>
    simp only [happen, hostWrite] at h
    split at h <;> cases h
    next off _ =>
      obtain ⟨-, hw⟩ | ⟨-, hw⟩ | ⟨-, -, hw⟩ := regWrite_cases s off v <;> rw [hw]
      · exact .issues v
      · exact .setsArg v
      · exact .idle

/-- Everything a step can do, once the event is taken from the schedule. -/
theorem step_stepTo {s t : State} (h : step s = .next t) : ∃ rest, StepTo (s.setSched rest) t := by
  obtain ⟨hs, hc⟩ | ⟨e, rest, -, he⟩ := step_cases h
  · exact ⟨[], coreStep_stepTo (by rw [show s.setSched [] = s by rw [← hs]; rfl]; exact hc)⟩
  · exact ⟨rest, happen_stepTo he⟩

/-! ### The packer, the forest, the cursor and the code table -/

/-- The packer, the cursor, the forest and the code table of a state, every other field at its reset value. -/
def State.tables (s : State) : State :=
  { State.reset with
    pkAcc := s.pkAcc, pkCnt := s.pkCnt, decCur := s.decCur, node := s.node, ncount := s.ncount, nleaf := s.nleaf,
    treeValid := s.treeValid, codeValid := s.codeValid, codeLen := s.codeLen, codeBits := s.codeBits,
    codesValid := s.codesValid, lastBits := s.lastBits }

@[simp] theorem tables_raise (s : State) (e : ErrCode) (w : Word) : (s.raise e w).tables = s.tables := by
  simp [State.tables]

@[simp] theorem tables_issue (s : State) (v : Word) : (s.issue v).tables = s.tables := by
  simp [State.tables]

/-- A step either leaves the tables, resets them, or makes of them what a command's effect does. -/
theorem StepTo.tables_eq {s t : State} (h : StepTo s t) :
    t.tables = s.tables ∨ t.tables = State.reset.tables ∨
      ∃ i, firstError (checksOf s i) = none ∧ t.tables = (effectOf s i).tables := by
  cases h with
  | idle | discards | setsArg => exact .inl rfl
  | raises => exact .inl (tables_raise ..)
  | issues => exact .inl (tables_issue ..)
  | reads hr => obtain rfl | rfl | rfl := hr <;> exact .inl rfl
  | resets => exact .inr (.inl rfl)
  | runs _ _ _ _ hc => exact .inr (.inr ⟨_, hc, rfl⟩)

/-- A property of the tables alone that holds at reset and that every command's effect keeps is kept by every step. -/
theorem step_keeps_tables {P : State → Prop} (htables : ∀ s, P s.tables ↔ P s) (hreset : P State.reset)
    (heffect : ∀ s i, P s → firstError (checksOf s i) = none → P (effectOf s i)) {s t : State} (hs : P s)
    (h : step s = .next t) : P t := by
  obtain ⟨rest, hstep⟩ := step_stepTo h
  have hr : P (s.setSched rest) := (htables _).mp ((htables s).mpr hs)
  rw [← htables t]
  obtain ht | ht | ⟨i, hc, ht⟩ := hstep.tables_eq <;> rw [ht, htables]
  · exact hr
  · exact hreset
  · exact heffect _ i hr hc

/-- FLUSH changes the queue and the packer alone (R123). -/
theorem flushEffect_frame (s : State) :
    flushEffect s =
      { s with outq := (flushEffect s).outq, pkAcc := (flushEffect s).pkAcc, pkCnt := (flushEffect s).pkCnt } := by
  unfold flushEffect; split <;> rfl

/-! ### The error registers -/

theorem errorsOk_raise {s : State} {e : ErrCode} (he : e ≠ .none) (w : Word) : ErrorsOk (s.raise e w) := by
  intro h
  by_cases hs : s.errCode = .none <;> simp_all

/-- No effect but CLEAR's touches the error registers (R28). -/
theorem errorsOk_effectOf {s : State} (h : ErrorsOk s) (i : Instr) : ErrorsOk (effectOf s i) := by
  cases i with
  | clear => exact fun _ => rfl
  | flush => rw [effectOf, flushEffect_frame]; exact h
  | _ => exact h

theorem StepTo.errorsOk {s t : State} (h : StepTo s t) (hs : ErrorsOk s) : ErrorsOk t := by
  cases h with
  | idle | discards | setsArg => exact hs
  | raises _ _ he => exact errorsOk_raise he _
  | runs _ _ _ _ _ => exact errorsOk_effectOf hs _
  | resets => exact fun _ => rfl
  | reads hr => obtain rfl | rfl | rfl := hr <;> exact hs
  | issues v =>
    unfold State.issue; split
    · exact errorsOk_raise (by decide) v
    · exact hs

/-! ### The packer -/

/-- A packing step keeps the bits at `PK_CNT` and above 0 (R120). -/
theorem packBit_acc_lt {p : Packer} (h : p.acc.toNat < 2 ^ p.cnt.toNat) (b : Bool) :
    (packBit p b).acc.toNat < 2 ^ (packBit p b).cnt.toNat := by
  unfold packBit
  by_cases hc : p.cnt = 7#3
  · simp [hc]
  · have hlt : p.cnt.toNat < 7 := by
      have := p.cnt.isLt
      have : p.cnt.toNat ≠ 7 := fun h' => hc (BitVec.eq_of_toNat_eq h')
      omega
    have hcnt : (p.cnt + 1#3).toNat = p.cnt.toNat + 1 := by
      rw [BitVec.toNat_add]; exact Nat.mod_eq_of_lt (by simp; omega)
    simp only [hc, if_false, hcnt, BitVec.toNat_or, BitVec.toNat_shiftLeft]
    refine Nat.or_lt_two_pow (h.trans (Nat.pow_lt_pow_right (by decide) (Nat.lt_succ_self _))) ?_
    refine (Nat.mod_le _ _).trans_lt ?_
    rw [Nat.shiftLeft_eq, pow_succ, Nat.mul_comm]
    refine Nat.mul_lt_mul_of_pos_left ?_ (by positivity)
    cases b <;> decide

theorem packBits_acc_lt {p : Packer} (h : p.acc.toNat < 2 ^ p.cnt.toNat) (bits : List Bool) :
    (packBits p bits).acc.toNat < 2 ^ (packBits p bits).cnt.toNat := by
  induction bits generalizing p with
  | nil => exact h
  | cons b bits ih => exact ih (packBit_acc_lt h b)

theorem packerOk_effectOf {s : State} (h : PackerOk s) (i : Instr) : PackerOk (effectOf s i) := by
  cases i with
  | clear => exact Nat.one_pos
  | encode | pack => exact packBits_acc_lt (p := s.packer) h _
  | flush =>
    change PackerOk (flushEffect s); unfold flushEffect; split
    · exact Nat.one_pos
    · exact h
  | _ => exact h

/-- Settles O52: the packer by the packing step, the error registers by what a step can do. -/
theorem stepKeepsThePackerAndTheErrors : Obligations.StepKeepsThePackerAndTheErrors := by
  intro s t h
  refine ⟨fun hs => ?_, fun hs => ?_⟩
  · exact step_keeps_tables (P := PackerOk) (fun _ => Iff.rfl) Nat.one_pos (fun _ i hs _ => packerOk_effectOf hs i) hs h
  · obtain ⟨rest, hstep⟩ := step_stepTo h
    exact hstep.errorsOk hs

end Sys2Proof.Machine
end

section
/-!
PROOFS. The forest BUILD makes (spec/41_tree.md R92 to R96): what the scan finds, what one merge does to the nodes, and the shape of a
forest while it grows, from the leaves to the root.
-/

namespace Sys2Proof.Machine

/-! ### Nodes of a forest -/

theorem forestAt_eq_getElem {f : List Node} {i : ℕ} (h : i < f.length) : forestAt f i = f[i] := by
  simp [forestAt, h]

theorem forestAt_of_length_le {f : List Node} {i : ℕ} (h : f.length ≤ i) : forestAt f i = Node.empty := by
  simp [forestAt, h]

theorem forestAt_append {f g : List Node} {i : ℕ} (h : i < f.length) : forestAt (f ++ g) i = forestAt f i := by
  simp [forestAt, List.getElem?_append_left h]

@[simp] theorem forestAt_concat_length (f : List Node) (n : Node) : forestAt (f ++ [n]) f.length = n := by
  simp [forestAt]

theorem forestAt_consume {f : List Node} {i : ℕ} (h : i < f.length) (k : ℕ) :
    forestAt (consume f i) k = if k = i then { forestAt f i with consumed := true } else forestAt f k := by
  unfold consume
  generalize { forestAt f i with consumed := true } = n
  unfold forestAt
  rw [List.getElem?_set]
  by_cases hk : k = i
  · subst hk; simp [h]
  · simp [hk, Ne.symm hk]

/-- The indices of the nodes that are not consumed. -/
def unconsumed (f : List Node) : Finset ℕ := (Finset.range f.length).filter fun k => (forestAt f k).consumed = false

theorem mem_unconsumed {f : List Node} {k : ℕ} :
    k ∈ unconsumed f ↔ k < f.length ∧ (forestAt f k).consumed = false := by
  simp [unconsumed]

theorem unconsumed_consume {f : List Node} {i : ℕ} (h : i < f.length) :
    unconsumed (consume f i) = (unconsumed f).erase i := by
  ext k
  rw [Finset.mem_erase, mem_unconsumed, mem_unconsumed, length_consume, forestAt_consume h]
  by_cases hk : k = i <;> simp [hk]

theorem unconsumed_concat {f : List Node} {n : Node} (h : n.consumed = false) :
    unconsumed (f ++ [n]) = insert f.length (unconsumed f) := by
  ext k
  rw [Finset.mem_insert, mem_unconsumed, mem_unconsumed, List.length_append, List.length_singleton]
  obtain hk | rfl | hk := Nat.lt_trichotomy k f.length
  · simp [forestAt_append hk, hk, hk.ne]; omega
  · simp [h]
  · simp [hk.ne', hk.not_gt, show ¬ k < f.length + 1 by omega]

/-! ### The scan (R92) -/

/-- A lesser node is unconsumed if the other is (R90, R91). -/
theorem consumed_eq_false_of_nodeLess {a b : ℕ × Node} (h : nodeLess a b = true) (hb : b.2.consumed = false) :
    a.2.consumed = false := by
  unfold nodeLess nodeKey at h
  cases ha : a.2.consumed
  · rfl
  · simp [lexLt, ha, hb] at h

/-- An unconsumed node is less than every consumed one (R90, R91). -/
theorem nodeLess_of_consumed {a b : ℕ × Node} (ha : a.2.consumed = false) (hb : b.2.consumed = true) :
    nodeLess a b = true := by
  simp [nodeLess, nodeKey, lexLt, ha, hb]

/-- The scan from index `i` on, with `j` the best so far, gives a node of the forest, and an unconsumed one where it meets one. -/
theorem scanLeast_spec {f : List Node} : ∀ {l : List Node} {i j : ℕ}, f.drop i = l → j < f.length →
    scanLeast l i (j, forestAt f j) < f.length ∧
      (((forestAt f j).consumed = false ∨ ∃ k ∈ unconsumed f, i ≤ k) →
        (forestAt f (scanLeast l i (j, forestAt f j))).consumed = false)
  | [], i, j, hl, hj => by
    refine ⟨hj, ?_⟩
    rintro (h | ⟨k, hk, hik⟩)
    · exact h
    · have := (mem_unconsumed.mp hk).1
      have := List.drop_eq_nil_iff.mp hl
      omega
  | n :: l, i, j, hl, hj => by
    have hi : i < f.length := by
      by_contra hi; rw [List.drop_eq_nil_of_le (by omega)] at hl; cases hl
    obtain ⟨hn, hl'⟩ : forestAt f i = n ∧ f.drop (i + 1) = l := by
      rw [List.drop_eq_getElem_cons hi] at hl
      rw [forestAt_eq_getElem hi]; exact List.cons.inj hl
    have hnext : ∀ {k}, k ∈ unconsumed f → i ≤ k → (forestAt f i).consumed = false ∨ ∃ m ∈ unconsumed f, i + 1 ≤ m := by
      intro k hk hik
      obtain rfl | hlt := hik.eq_or_lt
      · exact .inl (mem_unconsumed.mp hk).2
      · exact .inr ⟨k, hk, hlt⟩
    rw [scanLeast, ← hn]
    split
    next hless =>
      obtain ⟨hlt, hcons⟩ := scanLeast_spec hl' hi
      refine ⟨hlt, fun h => hcons ?_⟩
      obtain h | ⟨k, hk, hik⟩ := h
      · exact .inl (consumed_eq_false_of_nodeLess hless h)
      · exact hnext hk hik
    next hless =>
      obtain ⟨hlt, hcons⟩ := scanLeast_spec hl' hj
      refine ⟨hlt, fun h => hcons ?_⟩
      obtain h | ⟨k, hk, hik⟩ := h
      · exact .inl h
      · refine (hnext hk hik).imp_left fun hni => ?_
        by_contra hjc
        exact hless (nodeLess_of_consumed hni (by simpa using hjc))

/-- The scan of a forest with an unconsumed node finds one (R92). -/
theorem argminUnconsumed_mem {f : List Node} (h : (unconsumed f).Nonempty) : argminUnconsumed f ∈ unconsumed f := by
  obtain ⟨k, hk⟩ := h
  cases f with
  | nil => simp [mem_unconsumed] at hk
  | cons n rest =>
    obtain ⟨hlt, hcons⟩ := scanLeast_spec (f := n :: rest) (l := rest) (i := 1) (j := 0) rfl (by simp)
    refine mem_unconsumed.mpr ⟨hlt, hcons ?_⟩
    obtain rfl | hpos := Nat.eq_zero_or_pos k
    · exact .inl (mem_unconsumed.mp hk).2
    · exact .inr ⟨k, hk, hpos⟩

/-! ### One merge (R94) -/

/-- The first node a merge joins. -/
def lightest (f : List Node) : ℕ := argminUnconsumed f

/-- The second node a merge joins: the least with the first excluded. -/
def secondLightest (f : List Node) : ℕ := argminUnconsumed (consume f (lightest f))

/-- The nodes of a forest once a merge has marked two of them. -/
def marked (f : List Node) : List Node := consume (consume f (lightest f)) (secondLightest f)

@[simp] theorem length_marked (f : List Node) : (marked f).length = f.length := by simp [marked]

theorem merge_eq (f : List Node) : merge f = marked f ++ [mergedNode (marked f) (lightest f) (secondLightest f)] := rfl

section
variable {f : List Node} (hf : 2 ≤ (unconsumed f).card)
include hf

theorem lightest_mem : lightest f ∈ unconsumed f :=
  argminUnconsumed_mem (Finset.card_pos.mp (by omega))

theorem lightest_lt : lightest f < f.length := (mem_unconsumed.mp (lightest_mem hf)).1

theorem secondLightest_mem_erase : secondLightest f ∈ (unconsumed f).erase (lightest f) := by
  rw [← unconsumed_consume (lightest_lt hf)]
  refine argminUnconsumed_mem (Finset.card_pos.mp ?_)
  rw [unconsumed_consume (lightest_lt hf), Finset.card_erase_of_mem (lightest_mem hf)]
  omega

theorem secondLightest_ne : secondLightest f ≠ lightest f := Finset.ne_of_mem_erase (secondLightest_mem_erase hf)

theorem secondLightest_mem : secondLightest f ∈ unconsumed f := Finset.mem_of_mem_erase (secondLightest_mem_erase hf)

theorem secondLightest_lt : secondLightest f < f.length := (mem_unconsumed.mp (secondLightest_mem hf)).1

theorem secondLightest_lt_consume : secondLightest f < (consume f (lightest f)).length := by
  rw [length_consume]; exact secondLightest_lt hf

theorem unconsumed_merge :
    unconsumed (merge f) = insert f.length (((unconsumed f).erase (lightest f)).erase (secondLightest f)) := by
  rw [merge_eq, unconsumed_concat rfl, length_marked, marked, unconsumed_consume (secondLightest_lt_consume hf),
    unconsumed_consume (lightest_lt hf)]

/-- Marking two nodes leaves every node alone but for `consumed`. -/
theorem forestAt_marked (k : ℕ) : ∃ b, forestAt (marked f) k = { forestAt f k with consumed := b } := by
  rw [marked, forestAt_consume (secondLightest_lt_consume hf), forestAt_consume (lightest_lt hf),
    forestAt_consume (lightest_lt hf)]
  split_ifs with h₁ h₂ h₂
  · exact ⟨_, by rw [h₁, h₂]⟩
  · exact ⟨_, by rw [h₁]⟩
  · exact ⟨_, by rw [h₂]⟩
  · exact ⟨_, rfl⟩

/-- A merge leaves the old nodes alone but for `consumed`. -/
theorem forestAt_merge {k : ℕ} (hk : k < f.length) : ∃ b, forestAt (merge f) k = { forestAt f k with consumed := b } := by
  rw [merge_eq, forestAt_append (by simpa using hk)]
  exact forestAt_marked hf k

/-- The node a merge appends. -/
theorem forestAt_merge_length : forestAt (merge f) f.length = mergedNode f (lightest f) (secondLightest f) := by
  obtain ⟨a, ha⟩ := forestAt_marked hf (lightest f)
  obtain ⟨b, hb⟩ := forestAt_marked hf (secondLightest f)
  rw [merge_eq, ← length_marked f, forestAt_concat_length, mergedNode, ha, hb, mergedNode]

/-- The weight of the nodes still to be joined, with the two that a merge takes written apart. -/
theorem sum_weight_unconsumed :
    ∑ k ∈ unconsumed f, (forestAt f k).weight.toNat =
      (forestAt f (lightest f)).weight.toNat + ((forestAt f (secondLightest f)).weight.toNat +
        ∑ k ∈ ((unconsumed f).erase (lightest f)).erase (secondLightest f), (forestAt f k).weight.toNat) := by
  rw [Finset.add_sum_erase _ (fun k => (forestAt f k).weight.toNat) (secondLightest_mem_erase hf),
    Finset.add_sum_erase _ (fun k => (forestAt f k).weight.toNat) (lightest_mem hf)]

end

/-! ### The forest while it grows (R95, R96) -/

/-- A forest of `n` leaves while its merges go on: the shape of R96, with the nodes still to be joined those that have no parent. -/
structure Growing (f : List Node) (n : ℕ) : Prop where
  long : n ≤ f.length
  leaf : ∀ i, i < n → (forestAt f i).kind = .leaf ∧ (forestAt f i).left = 0#9 ∧ (forestAt f i).right = 0#9 ∧
    (forestAt f i).weight.toNat < 2 ^ 32
  ascending : ∀ i j, i < j → j < n → (forestAt f i).symbol.toNat < (forestAt f j).symbol.toNat
  internal : ∀ i, n ≤ i → i < f.length →
    (forestAt f i).kind = .internal ∧ (forestAt f i).symbol = 0#8 ∧ (forestAt f i).left.toNat < i ∧
      (forestAt f i).right.toNat < i ∧ (forestAt f i).left ≠ (forestAt f i).right
  weight : ∀ i, n ≤ i → i < f.length →
    (forestAt f i).weight.toNat =
      (forestAt f (forestAt f i).left.toNat).weight.toNat + (forestAt f (forestAt f i).right.toNat).weight.toNat
  /-- Every merge takes two nodes and adds one. -/
  card : (unconsumed f).card + f.length = 2 * n
  /-- The newest node is not joined yet. -/
  last : 0 < f.length → f.length - 1 ∈ unconsumed f
  /-- The nodes still to be joined weigh together what the leaves do. -/
  total : ∑ k ∈ unconsumed f, (forestAt f k).weight.toNat ≤ n * (2 ^ 32 - 1)
  orphan : ∀ c ∈ unconsumed f, ∀ p, ¬ ParentOf f p c
  parent : ∀ c < f.length, c ∉ unconsumed f → ∃ p, ParentOf f p c ∧ ∀ q, ParentOf f q c → q = p

namespace Growing

variable {f : List Node} {n : ℕ}

/-- In a growing forest a child lies below its parent. -/
theorem lt_of_parentOf (hg : Growing f n) {p c : ℕ} (h : ParentOf f p c) : c < p ∧ p < f.length := by
  obtain ⟨hp, hk, hc⟩ := h
  refine ⟨?_, hp⟩
  by_cases hpn : p < n
  · rw [(hg.leaf p hpn).1] at hk; cases hk
  · obtain ⟨-, -, hl, hr, -⟩ := hg.internal p (by omega) hp
    omega

section
variable (hg : Growing f n) (hn : n ≤ 256) (hf : 2 ≤ (unconsumed f).card)
include hg hn hf

theorem length_le : f.length ≤ 510 := by have := hg.card; omega

theorem mergedNode_left : (mergedNode f (lightest f) (secondLightest f)).left.toNat = lightest f := by
  have := hg.length_le hn hf; have := lightest_lt hf
  simp only [mergedNode, BitVec.toNat_ofNat]; omega

theorem mergedNode_right : (mergedNode f (lightest f) (secondLightest f)).right.toNat = secondLightest f := by
  have := hg.length_le hn hf; have := secondLightest_lt hf
  simp only [mergedNode, BitVec.toNat_ofNat]; omega

/-- The 40-bit sum does not wrap (R100 (1)). -/
theorem mergedNode_weight : (mergedNode f (lightest f) (secondLightest f)).weight.toNat =
    (forestAt f (lightest f)).weight.toNat + (forestAt f (secondLightest f)).weight.toNat := by
  have htotal := hg.total
  rw [sum_weight_unconsumed hf] at htotal
  have : n * (2 ^ 32 - 1) ≤ 256 * (2 ^ 32 - 1) := Nat.mul_le_mul_right _ hn
  rw [mergedNode, BitVec.toNat_add]; exact Nat.mod_eq_of_lt (by omega)

/-- A merge makes its new node the parent of the two it joins, and no other. -/
theorem parentOf_merge (p c : ℕ) : ParentOf (merge f) p c ↔
    ParentOf f p c ∨ (p = f.length ∧ (c = lightest f ∨ c = secondLightest f)) := by
  unfold ParentOf
  rw [length_merge]
  obtain hp | rfl | hp := Nat.lt_trichotomy p f.length
  · obtain ⟨b, hb⟩ := forestAt_merge hf hp
    simp [hb, hp, hp.ne, show p < f.length + 1 by omega]
  · rw [forestAt_merge_length hf, hg.mergedNode_left hn hf, hg.mergedNode_right hn hf]
    simp [mergedNode, eq_comm]
  · simp [hp.not_gt, hp.ne', show ¬ p < f.length + 1 by omega]

/-- A merge keeps the shape of the growing forest (R94). -/
theorem growing_merge : Growing (merge f) n := by
  obtain ⟨hlen, hone, htwo⟩ := And.intro (hg.length_le hn hf) (And.intro (lightest_lt hf) (secondLightest_lt hf))
  have hnew := forestAt_merge_length hf
  have hold := @forestAt_merge f hf
  have hweight : ∀ {k}, k < f.length → (forestAt (merge f) k).weight = (forestAt f k).weight := fun hk => by
    obtain ⟨b, hb⟩ := hold hk; rw [hb]
  have hleft := hg.mergedNode_left hn hf
  have hright := hg.mergedNode_right hn hf
  have hnotmem : f.length ∉ ((unconsumed f).erase (lightest f)).erase (secondLightest f) := by
    simp [mem_unconsumed]
  constructor
  case long => have := hg.long; simp; omega
  case leaf =>
    intro i hi
    obtain ⟨b, hb⟩ := hold (hi.trans_le hg.long)
    rw [hb]; exact hg.leaf i hi
  case ascending =>
    intro i j hij hj
    obtain ⟨a, ha⟩ := hold ((hij.trans hj).trans_le hg.long)
    obtain ⟨b, hb⟩ := hold (hj.trans_le hg.long)
    rw [ha, hb]; exact hg.ascending i j hij hj
  case internal =>
    intro i hni hi
    obtain hi | rfl := Nat.lt_succ_iff_lt_or_eq.mp (by simpa using hi)
    · obtain ⟨b, hb⟩ := hold hi
      rw [hb]; exact hg.internal i hni hi
    · rw [hnew, hleft, hright]
      exact ⟨rfl, rfl, hone, htwo, fun h => secondLightest_ne hf (hright.symm.trans (h ▸ hleft))⟩
  case weight =>
    intro i hni hi
    obtain hi | rfl := Nat.lt_succ_iff_lt_or_eq.mp (by simpa using hi)
    · obtain ⟨-, -, hl, hr, -⟩ := hg.internal i hni hi
      obtain ⟨b, hb⟩ := hold hi
      rw [hb, hweight (hl.trans hi), hweight (hr.trans hi)]; exact hg.weight i hni hi
    · rw [hnew, hleft, hright, hweight hone, hweight htwo]; exact hg.mergedNode_weight hn hf
  case card =>
    have := hg.card
    rw [unconsumed_merge hf, Finset.card_insert_of_notMem hnotmem, Finset.card_erase_of_mem (secondLightest_mem_erase hf),
      Finset.card_erase_of_mem (lightest_mem hf), length_merge]
    omega
  case last =>
    intro _
    rw [unconsumed_merge hf, length_merge]; exact Finset.mem_insert_self ..
  case total =>
    have hrest : ∀ k ∈ ((unconsumed f).erase (lightest f)).erase (secondLightest f), k < f.length := fun k hk =>
      (mem_unconsumed.mp (Finset.mem_of_mem_erase (Finset.mem_of_mem_erase hk))).1
    rw [unconsumed_merge hf, Finset.sum_insert hnotmem, hnew, hg.mergedNode_weight hn hf,
      Finset.sum_congr rfl fun k hk => by rw [hweight (hrest k hk)], Nat.add_assoc, ← sum_weight_unconsumed hf]
    exact hg.total
  case orphan =>
    intro c hc p hp
    rw [unconsumed_merge hf, Finset.mem_insert, Finset.mem_erase, Finset.mem_erase] at hc
    rw [hg.parentOf_merge hn hf] at hp
    obtain rfl | ⟨hc₂, hc₁, hc⟩ := hc <;> obtain hp | ⟨-, hp⟩ := hp
    · have := hg.lt_of_parentOf hp; omega
    · omega
    · exact hg.orphan c hc p hp
    · exact hp.elim hc₁ hc₂
  case parent =>
    intro c hc hcu
    simp only [unconsumed_merge hf, Finset.mem_insert, Finset.mem_erase, not_or, not_and] at hcu
    simp only [hg.parentOf_merge hn hf]
    have hc : c < f.length := by simp at hc; omega
    by_cases hcu' : c ∈ unconsumed f
    · have hjoined : c = lightest f ∨ c = secondLightest f := by tauto
      refine ⟨f.length, .inr ⟨rfl, hjoined⟩, ?_⟩
      rintro q (hq | ⟨rfl, -⟩)
      · exact absurd hq (hg.orphan c hcu' q)
      · rfl
    · obtain ⟨p, hp, huniq⟩ := hg.parent c hc hcu'
      refine ⟨p, .inl hp, ?_⟩
      rintro q (hq | ⟨-, rfl | rfl⟩)
      · exact huniq q hq
      · exact absurd (lightest_mem hf) hcu'
      · exact absurd (secondLightest_mem hf) hcu'

end

theorem growing_mergeTimes {f : List Node} {n k : ℕ} (hg : Growing f n) (hn : n ≤ 256) (hk : f.length + k ≤ 2 * n - 1) :
    Growing (mergeTimes k f) n := by
  induction k generalizing f with
  | zero => exact hg
  | succ k ih =>
    have := hg.card
    exact ih (hg.growing_merge hn (by omega)) (by rw [length_merge]; omega)

/-- A forest with all its merges made has the shape of R96. -/
theorem shape {f : List Node} {n : ℕ} (hg : Growing f n) (hn : n ≤ 256) (hlen : f.length = 2 * n - 1) :
    ForestShape f n := by
  have hroot : ∀ k, k + 1 < f.length → k ∉ unconsumed f := by
    intro k hk hku
    have hcard : (unconsumed f).card ≤ 1 := by have := hg.card; omega
    have := Finset.card_le_one.mp hcard k hku _ (hg.last (by omega))
    omega
  exact
    { count := hlen, bound := hn, leaf := hg.leaf, ascending := hg.ascending, internal := hg.internal, weight := hg.weight
      consumed := fun i hi => by
        by_contra h; exact hroot i hi (mem_unconsumed.mpr ⟨by omega, by simpa using h⟩)
      root := fun h => (mem_unconsumed.mp (hg.last h)).2
      parent := fun c hc => hg.parent c (by omega) (hroot c hc) }

end Growing

/-! ### The leaves (R93) -/

theorem symbols_pairwise : symbols.Pairwise fun a b => a.toNat < b.toNat := by
  rw [symbols, List.pairwise_map]
  refine List.pairwise_lt_range.imp_of_mem fun ha hb hab => ?_
  rw [List.mem_range] at ha hb
  simpa [Nat.mod_eq_of_lt ha, Nat.mod_eq_of_lt hb] using hab

theorem mem_leavesOf {present : Vector Bool 256} {freq : Vector (BitVec 32) 256} {x : Node}
    (h : x ∈ leavesOf present freq) : ∃ sym, x = leafNode sym (symGet freq sym) := by
  obtain ⟨sym, -, hx⟩ := List.mem_filterMap.mp h
  split at hx <;> cases hx
  exact ⟨sym, rfl⟩

theorem leavesOf_pairwise (present : Vector Bool 256) (freq : Vector (BitVec 32) 256) :
    (leavesOf present freq).Pairwise fun a b => a.symbol.toNat < b.symbol.toNat := by
  refine symbols_pairwise.filterMap _ fun a b hab x hx y hy => ?_
  split at hx <;> split at hy <;> cases hx <;> cases hy
  exact hab

/-- The leaves are a growing forest in which nothing is joined yet. -/
theorem growing_leavesOf (present : Vector Bool 256) (freq : Vector (BitVec 32) 256) :
    Growing (leavesOf present freq) (leavesOf present freq).length := by
  have hleaf : ∀ i, i < (leavesOf present freq).length →
      ∃ sym, forestAt (leavesOf present freq) i = leafNode sym (symGet freq sym) := fun i hi => by
    rw [forestAt_eq_getElem hi]; exact mem_leavesOf (List.getElem_mem hi)
  have hweight : ∀ i, i < (leavesOf present freq).length →
      (forestAt (leavesOf present freq) i).weight.toNat ≤ 2 ^ 32 - 1 := fun i hi => by
    obtain ⟨sym, hs⟩ := hleaf i hi
    have := (symGet freq sym).isLt
    rw [hs, leafNode, BitVec.toNat_setWidth]
    exact (Nat.mod_le _ _).trans (by omega)
  have hall : unconsumed (leavesOf present freq) = Finset.range (leavesOf present freq).length := by
    refine Finset.filter_true_of_mem fun i hi => ?_
    obtain ⟨sym, hs⟩ := hleaf i (Finset.mem_range.mp hi)
    rw [hs]; rfl
  have hnone : ∀ p c, ¬ ParentOf (leavesOf present freq) p c := by
    rintro p c ⟨hp, hk, -⟩
    obtain ⟨sym, hs⟩ := hleaf p hp
    rw [hs] at hk; cases hk
  constructor
  case long => exact le_rfl
  case orphan => exact fun c _ p => hnone p c
  case leaf =>
    intro i hi
    have hw := hweight i hi
    obtain ⟨sym, hs⟩ := hleaf i hi
    rw [hs] at hw ⊢
    exact ⟨rfl, rfl, rfl, by omega⟩
  case ascending =>
    intro i j hij hj
    rw [forestAt_eq_getElem hj, forestAt_eq_getElem (hij.trans hj)]
    exact List.pairwise_iff_getElem.mp (leavesOf_pairwise present freq) i j _ _ hij
  case internal => intro i hi hi'; omega
  case weight => intro i hi hi'; omega
  case card => rw [hall, Finset.card_range]; omega
  case last => intro h; rw [hall, Finset.mem_range]; omega
  case total =>
    rw [hall]
    simpa using Finset.sum_le_card_nsmul _ _ _ fun i hi => hweight i (Finset.mem_range.mp hi)
  case parent => intro c hc hcu; rw [hall, Finset.mem_range] at hcu; exact absurd hc hcu

/-! ### The forest of BUILD (R95, R96) -/

theorem forestShape_forestOf (present : Vector Bool 256) (freq : Vector (BitVec 32) 256) :
    ForestShape (forestOf present freq) (leavesOf present freq).length := by
  have hn := length_leavesOf_le present freq
  obtain h | h := Nat.eq_zero_or_pos (leavesOf present freq).length
  · have hg := growing_leavesOf present freq
    have hnil : forestOf present freq = leavesOf present freq := by rw [forestOf, h]; rfl
    rw [hnil]; exact hg.shape hn (by omega)
  · exact ((growing_leavesOf present freq).growing_mergeTimes hn (by omega)).shape hn (length_forestOf present freq)

end Sys2Proof.Machine
end

section
/-!
PROOFS. The arena and the cursor (spec/10_state.md R34, R35, R39): a built forest or nothing, the cursor at an internal node of it, and
every step keeps both.
-/

namespace Sys2Proof.Machine

/-! ### The arena -/

/-- An empty arena with its counters 0 is sound (R89). -/
theorem treeOk_of_empty {s : State} (hnode : s.node = Vector.replicate 511 Node.empty) (hncount : s.ncount = 0#10)
    (hnleaf : s.nleaf = 0#9) (hvalid : s.treeValid = false) : TreeOk s := by
  refine ⟨by simp [hncount], fun i _ => by rw [hnode, nodeAt_replicate], fun _ => ⟨hncount, hnleaf⟩, fun h => ?_⟩
  rw [hvalid] at h; cases h

/-- A forest of the shape of R96, set in the arena, is sound. -/
theorem treeOk_setForest (s : State) {f : List Node} {n : ℕ} (h : ForestShape f n) : TreeOk (s.setForest f n) := by
  have hlen : f.length ≤ 511 := by have := h.count; have := h.bound; omega
  have hncount : (s.setForest f n).ncount.toNat = f.length := by
    rw [State.setForest_ncount, BitVec.toNat_ofNat]; exact Nat.mod_eq_of_lt (by omega)
  have hnleaf : (s.setForest f n).nleaf.toNat = n := by
    have := h.bound
    rw [State.setForest_nleaf, BitVec.toNat_ofNat]; exact Nat.mod_eq_of_lt (by omega)
  refine ⟨hncount.trans_le hlen, fun i hi => ?_, fun hv => absurd hv (by simp), fun _ => ?_⟩
  · rw [State.setForest_node, nodeAt_arenaOf hlen]; exact forestAt_of_length_le (hncount.symm.trans_le hi)
  · rw [forest_arenaOf s n hlen, hnleaf]; exact h

/-- BUILD makes a sound arena of every frequency table (R95). -/
theorem treeOk_buildEffect (s : State) : TreeOk (buildEffect s) :=
  treeOk_setForest _ (forestShape_forestOf s.present s.freq)

theorem treeOk_effectOf {s : State} (h : TreeOk s) (i : Instr) : TreeOk (effectOf s i) := by
  cases i with
  | clear | setfreq => exact treeOk_of_empty rfl rfl rfl rfl
  | build => exact treeOk_buildEffect s
  | flush => rw [effectOf, flushEffect_frame]; exact h
  | _ => exact h

theorem treeOk_reset : TreeOk State.reset := treeOk_of_empty rfl rfl rfl rfl

/-- Settles O54: BUILD makes the shape of R96, CLEAR and SETFREQ empty the arena, nothing else writes it. -/
theorem stepKeepsTheForest : Obligations.StepKeepsTheForest := fun _ _ hs h =>
  step_keeps_tables (P := TreeOk) (fun _ => Iff.rfl) treeOk_reset (fun _ i hs _ => treeOk_effectOf hs i) hs h

/-! ### What a sound arena holds -/

theorem length_forest {s : State} (h : s.ncount.toNat ≤ 511) : s.forest.length = s.ncount.toNat := by
  simp [State.forest, h]

theorem toNat_rootIdx {c : BitVec 10} (h : c.toNat ≤ 511) : (rootIdx c).toNat = c.toNat - 1 := by
  unfold rootIdx
  split
  next hpos =>
    have hone : 1#10 ≤ c := BitVec.le_def.mpr hpos
    rw [BitVec.toNat_setWidth, BitVec.toNat_sub_of_le hone]
    exact Nat.mod_eq_of_lt (by simp; omega)
  next hpos => simp; omega

section
variable {s : State} (ht : TreeOk s)
include ht

theorem TreeOk.toNat_root : (rootIdx s.ncount).toNat = s.ncount.toNat - 1 := toNat_rootIdx ht.1

variable (hv : s.treeValid = true)
include hv

theorem TreeOk.shape : ForestShape s.forest s.nleaf.toNat := by
  obtain ⟨-, -, -, hshape⟩ := ht
  exact hshape hv

theorem TreeOk.ncount_eq : s.ncount.toNat = 2 * s.nleaf.toNat - 1 := by
  rw [← length_forest ht.1, (ht.shape hv).count]

/-- The leaves lie below `NLEAF`, the internal nodes from there on (R96 (2)). -/
theorem TreeOk.kind_eq {i : ℕ} (hi : i < s.ncount.toNat) :
    (nodeAt s.node i).kind = if i < s.nleaf.toNat then .leaf else .internal := by
  have hshape := ht.shape hv
  rw [← forestAt_forest s hi]
  split
  next hleaf => exact (hshape.leaf i hleaf).1
  next hleaf => exact (hshape.internal i (by omega) (by rw [length_forest ht.1]; exact hi)).1

theorem TreeOk.kind_eq_internal_iff {i : ℕ} (hi : i < s.ncount.toNat) :
    (nodeAt s.node i).kind = .internal ↔ s.nleaf.toNat ≤ i := by
  rw [ht.kind_eq hv hi]; split <;> simp <;> omega

/-- The children of an internal node lie below it (R96 (3)). -/
theorem TreeOk.children_lt {i : ℕ} (hi : i < s.ncount.toNat) (hk : (nodeAt s.node i).kind = .internal) :
    (nodeAt s.node i).left.toNat < i ∧ (nodeAt s.node i).right.toNat < i := by
  rw [ht.kind_eq_internal_iff hv hi] at hk
  rw [← forestAt_forest s hi]
  obtain ⟨-, -, hl, hr, -⟩ := (ht.shape hv).internal i hk (by rw [length_forest ht.1]; exact hi)
  exact ⟨hl, hr⟩

end

/-! ### The cursor -/

/-- The index is that of an internal node of the forest. -/
def OnInternal (s : State) (i : NodeIdx) : Prop :=
  i.toNat < s.ncount.toNat ∧ (nodeAt s.node i.toNat).kind = .internal

/-- The root of a tree of two leaves or more is an internal node (R96). -/
theorem onInternal_root {s : State} (ht : TreeOk s) (hv : s.treeValid = true) (h2 : 2 ≤ s.nleaf.toNat) :
    OnInternal s (rootIdx s.ncount) := by
  have hn := ht.ncount_eq hv
  have hlt : (rootIdx s.ncount).toNat < s.ncount.toNat := by rw [ht.toNat_root]; omega
  refine ⟨hlt, (ht.kind_eq_internal_iff hv hlt).mpr ?_⟩
  rw [ht.toNat_root]; omega

/-- A walk step goes from an internal node to an internal node (R140). -/
theorem onInternal_walkBit {s : State} (ht : TreeOk s) (hv : s.treeValid = true) (h2 : 2 ≤ s.nleaf.toNat) {x : Walk}
    (hx : OnInternal s x.cur) (b : Bool) : OnInternal s (walkBit s.node (rootIdx s.ncount) x b).cur := by
  obtain ⟨hlt, hk⟩ := hx
  obtain ⟨hl, hr⟩ := ht.children_lt hv hlt hk
  have hchild : (if b then (nodeAt s.node x.cur.toNat).right else (nodeAt s.node x.cur.toNat).left).toNat < s.ncount.toNat := by
    split <;> omega
  simp only [walkBit]
  generalize (if b then (nodeAt s.node x.cur.toNat).right else (nodeAt s.node x.cur.toNat).left) = child at hchild ⊢
  split
  · exact onInternal_root ht hv h2
  · refine ⟨hchild, ?_⟩
    have hkind := ht.kind_eq hv hchild
    split at hkind
    · contradiction
    · exact hkind

theorem onInternal_walkBits {s : State} (ht : TreeOk s) (hv : s.treeValid = true) (h2 : 2 ≤ s.nleaf.toNat) {x : Walk}
    (hx : OnInternal s x.cur) (bits : List Bool) : OnInternal s (walkBits s.node (rootIdx s.ncount) x bits).cur := by
  induction bits generalizing x with
  | nil => exact hx
  | cons b bits ih => exact ih (onInternal_walkBit ht hv h2 hx b)

/-- A cursor at the root, or at 0 without a tree, is sound (R39, R142). -/
theorem cursorOk_of_root {s : State} (ht : TreeOk s) (hc : s.decCur = if s.treeValid then rootIdx s.ncount else 0#9) :
    CursorOk s := by
  refine ⟨fun hv => by rw [hc, hv]; rfl, fun hv h1 => ?_, fun hv h2 => ?_⟩ <;> rw [hc, hv, if_pos rfl]
  · have hn := ht.ncount_eq hv
    refine BitVec.eq_of_toNat_eq ?_
    rw [ht.toNat_root]; simp; omega
  · exact onInternal_root ht hv h2

/-- DECODE without an error has a tree of two leaves or more (R141). -/
theorem tree_of_decodeChecks {s : State} {nbits : BitVec 8} (ht : TreeOk s)
    (h : firstError (decodeChecks nbits s) = none) : s.treeValid = true ∧ 2 ≤ s.nleaf.toNat := by
  rw [firstError_eq_none] at h
  simp only [decodeChecks, List.forall_mem_cons, Bool.not_eq_false', beq_eq_false_iff_ne] at h
  obtain ⟨-, hv, hn0, hl1, -⟩ := h
  have hn := ht.ncount_eq hv
  have hn0 : s.ncount.toNat ≠ 0 := fun h => hn0 (BitVec.eq_of_toNat_eq h)
  have hl1 : s.nleaf.toNat ≠ 1 := fun h => hl1 (BitVec.eq_of_toNat_eq h)
  exact ⟨hv, by omega⟩

theorem cursorOk_effectOf {s : State} (ht : TreeOk s) (h : CursorOk s) (i : Instr)
    (hc : firstError (checksOf s i) = none) : CursorOk (effectOf s i) := by
  cases i with
  | clear | setfreq => exact cursorOk_of_root (treeOk_of_empty rfl rfl rfl rfl) rfl
  | build => exact cursorOk_of_root (treeOk_buildEffect s) rfl
  | decreset => exact cursorOk_of_root (treeOk_effectOf ht .decreset) rfl
  | flush => rw [effectOf, flushEffect_frame]; exact h
  | decode nbits byte =>
    obtain ⟨hv, h2⟩ := tree_of_decodeChecks ht hc
    obtain ⟨-, -, hcur⟩ := h
    refine ⟨fun hv' => ?_, fun _ h1 => ?_, fun _ _ => onInternal_walkBits ht hv h2 (x := ⟨s.decCur, []⟩) (hcur hv h2) _⟩
    · exact absurd (hv.symm.trans hv') (by decide)
    · exact absurd (h2.trans h1) (by decide)
  | _ => exact h

theorem cursorOk_reset : CursorOk State.reset := cursorOk_of_root treeOk_reset rfl

/-- Settles O55, with the arena kept sound along (O54): a walk goes from internal node to internal node. -/
theorem stepKeepsTheCursor : Obligations.StepKeepsTheCursor := fun _ _ ht hs h =>
  (step_keeps_tables (P := fun s => TreeOk s ∧ CursorOk s) (fun _ => Iff.rfl) ⟨treeOk_reset, cursorOk_reset⟩
    (fun _ i hs hc => ⟨treeOk_effectOf hs.1 i, cursorOk_effectOf hs.1 hs.2 i hc⟩) ⟨ht, hs⟩ h).2

end Sys2Proof.Machine
end

section
/-!
PROOFS. The code table (spec/10_state.md R36, spec/42_codes.md R105 to R107): every step keeps it, and no code has a bit at its length
or above, since a path has at most as many edges as the forest has internal nodes.
-/

namespace Sys2Proof.Machine

/-! ### What every step keeps -/

/-- A cleared code table is sound (R88). -/
theorem codesOk_of_cleared {s : State} (hvalid : s.codeValid = Vector.replicate 256 false)
    (hlen : s.codeLen = Vector.replicate 256 0#8) (hbits : s.codeBits = Vector.replicate 256 0#256)
    (hcodes : s.codesValid = false) (hlast : s.lastBits = 0#3) : CodesOk s := by
  refine ⟨fun _ => ⟨fun sym => ?_, hlast⟩, fun h => by rw [hcodes] at h; cases h⟩
  simp [hvalid, hlen, hbits]

/-- EXTRACT without an error makes a sound code table (R106). -/
theorem codesOk_extractEffect {s : State} (hc : firstError (extractChecks s) = none) : CodesOk (extractEffect s) := by
  rw [firstError_eq_none] at hc
  simp only [extractChecks, List.forall_mem_cons, Bool.not_eq_false', beq_eq_false_iff_ne] at hc
  obtain ⟨hv, hn, -⟩ := hc
  refine ⟨fun h => (by cases h), fun _ => ⟨hv, hn, rfl, ?_⟩⟩
  exact (BitVec.toNat_ofNat ..).trans (Nat.mod_mod ..)

theorem codesOk_effectOf {s : State} (h : CodesOk s) (i : Instr) (hc : firstError (checksOf s i) = none) :
    CodesOk (effectOf s i) := by
  cases i with
  | clear | setfreq | build => exact codesOk_of_cleared rfl rfl rfl rfl rfl
  | extract => exact codesOk_extractEffect hc
  | flush => rw [effectOf, flushEffect_frame]; exact h
  | _ => exact h

theorem codesOk_reset : CodesOk State.reset := codesOk_of_cleared rfl rfl rfl rfl rfl

/-- Settles O56: whatever changes the forest clears the codes, and EXTRACT makes them of the forest. -/
theorem stepKeepsTheCodeTable : Obligations.StepKeepsTheCodeTable := fun _ _ hs h =>
  step_keeps_tables (P := CodesOk) (fun _ => Iff.rfl) codesOk_reset (fun _ i hs hc => codesOk_effectOf hs i hc) hs h

/-! ### The length of a path -/

/-- A climb takes one edge at most from each internal node it passes (R105). -/
theorem length_climb_le (l : List Node) (i cur : ℕ) :
    (climb l i cur).length ≤ l.countP fun n => decide (n.kind = .internal) := by
  induction l generalizing i cur with
  | nil => exact le_rfl
  | cons n l ih =>
    rw [climb, List.countP_cons]
    split
    next hleft => simpa [hleft.1] using ih (i + 1) i
    next =>
      split
      next hright => simpa [hright.1] using ih (i + 1) i
      next => exact (ih ..).trans (Nat.le_add_right ..)

/-- A forest of `n` leaves has `n` − 1 internal nodes (R96 (1), (2)). -/
theorem ForestShape.countP_internal_le {f : List Node} {n : ℕ} (h : ForestShape f n) :
    f.countP (fun x => decide (x.kind = .internal)) ≤ n - 1 := by
  have hcount := h.count
  have hleaves : (f.take n).countP (fun x => decide (x.kind = .internal)) = 0 := by
    rw [List.countP_eq_zero]
    intro x hx
    obtain ⟨i, hi, rfl⟩ := List.mem_iff_getElem.mp hx
    rw [List.length_take] at hi
    rw [List.getElem_take, ← forestAt_eq_getElem, (h.leaf i (by omega)).1]
    decide
  calc f.countP _ = (f.take n ++ f.drop n).countP (fun x => decide (x.kind = .internal)) := by rw [List.take_append_drop]
    _ = (f.drop n).countP _ := by rw [List.countP_append, hleaves, Nat.zero_add]
    _ ≤ (f.drop n).length := List.countP_le_length
    _ ≤ n - 1 := by rw [List.length_drop]; omega

/-- A path of a built forest has at most `n` − 1 bits (R100 (2)). -/
theorem ForestShape.length_codePath_le {f : List Node} {n : ℕ} (h : ForestShape f n) (i : ℕ) :
    (codePath f i).length ≤ n - 1 :=
  (length_climb_le ..).trans (((List.drop_sublist _ f).countP_le).trans h.countP_internal_le)

/-! ### The width of the stored codes -/

/-- No code of the table has a bit at its length or above. -/
def CodeTable.Narrow (t : CodeTable) : Prop := ∀ sym, (symGet t.bits sym).toNat < 2 ^ (symGet t.len sym).toNat

theorem narrow_empty : CodeTable.empty.Narrow := fun sym => by simp [CodeTable.empty]

theorem CodeTable.Narrow.enter {t : CodeTable} (h : t.Narrow) {path : List Bool} (hpath : path.length ≤ 255) (sym : Byte) :
    (t.enter sym path).Narrow := by
  intro b
  simp only [CodeTable.enter, symGet_symSet]
  split
  · rw [BitVec.toNat_ofNat, BitVec.toNat_ofNat, Nat.mod_eq_of_lt (show path.length < 2 ^ 8 by omega)]
    exact (Nat.mod_le ..).trans_lt (bitsOf_lt path)
  · exact h b

theorem narrow_codeTable {f : List Node} {n : ℕ} (h : ForestShape f n) (leaves : ℕ) : (codeTable f leaves).Narrow := by
  refine List.foldlRecOn (motive := CodeTable.Narrow) _ _ narrow_empty fun t ht i _ => ht.enter ?_ _
  have := h.length_codePath_le i; have := h.bound
  omega

/-- Settles O57: an absent code is 0, and a path's number is below 2 to its length. -/
theorem codesHaveNoBitsAboveTheirLength : Obligations.CodesHaveNoBitsAboveTheirLength := by
  rintro s ht ⟨hstale, hcodes⟩ sym
  cases hv : s.codesValid
  · obtain ⟨hzero, -⟩ := hstale hv
    obtain ⟨-, hlen, hbits⟩ := hzero sym
    rw [hlen, hbits]; decide
  · obtain ⟨htree, -, htable, -⟩ := hcodes hv
    have hnarrow := narrow_codeTable (ht.shape htree) s.nleaf.toNat
    rw [← htable] at hnarrow
    exact hnarrow sym

/-! ### Reset -/

/-- Settles O15: the reset state is the state of an empty machine. -/
theorem resetMeetsTheInvariant : Obligations.ResetMeetsTheInvariant where
  packer := Nat.one_pos
  queue := Nat.zero_le _
  errors := fun _ => rfl
  tree := treeOk_reset
  cursor := cursorOk_reset
  codes := codesOk_reset

end Sys2Proof.Machine
end

section
/-!
PROOFS. The fields of a word as numbers: of a register (spec/10_state.md R22 to R32) and of a command word under a row's mask
(spec/30_encoding.md R71 to R76).
-/

namespace Sys2Proof.Machine

/-! ### Fields of a register -/

/-- The field above counts past the field below. -/
theorem toNat_append_eq_add {m n : ℕ} (x : BitVec m) (y : BitVec n) : (x ++ y).toNat = x.toNat * 2 ^ n + y.toNat := by
  rw [BitVec.toNat_append, ← Nat.shiftLeft_add_eq_or_of_lt y.isLt, Nat.shiftLeft_eq]

theorem getLsbD_eq_of_div {m k : ℕ} {w : BitVec m} {b : Bool} (h : w.toNat / 2 ^ k % 2 = b.toNat) : w.getLsbD k = b := by
  rw [← BitVec.testBit_toNat, Nat.testBit_eq_decide_div_mod_eq, h]
  cases b <;> rfl

theorem extractLsb'_eq_of_div {m k n : ℕ} {w : BitVec m} {v : BitVec n} (h : w.toNat / 2 ^ k % 2 ^ n = v.toNat) :
    w.extractLsb' k n = v := by
  refine BitVec.eq_of_toNat_eq ?_
  rw [BitVec.extractLsb'_toNat, Nat.shiftRight_eq_div_pow, h]

/-! ### Fields of a command word -/

theorem formC_fields (w : Word) : formC (opField w) (aField w) (immField w) = w := by
  refine BitVec.eq_of_getLsbD_eq fun j hj => ?_
  rw [getLsbD_formC]
  simp only [opField, aField, immField, BitVec.getLsbD_extractLsb']
  split_ifs with hi ha
  · simp [hi]
  · simp [show j - 16 < 8 by omega, show 16 + (j - 16) = j by omega]
  · simp [show j - 24 < 8 by omega, show 24 + (j - 24) = j by omega]

theorem formC_inj {op op' a a' : BitVec 8} {imm imm' : BitVec 16} :
    formC op a imm = formC op' a' imm' ↔ op = op' ∧ a = a' ∧ imm = imm' := by
  refine ⟨fun h => ⟨?_, ?_, ?_⟩, fun ⟨ho, ha, hi⟩ => by rw [ho, ha, hi]⟩
  · rw [← opField_formC op a imm, h, opField_formC]
  · rw [← aField_formC op a imm, h, aField_formC]
  · rw [← immField_formC op a imm, h, immField_formC]

theorem formC_and (op op' a a' : BitVec 8) (imm imm' : BitVec 16) :
    formC op a imm &&& formC op' a' imm' = formC (op &&& op') (a &&& a') (imm &&& imm') := by
  unfold formC
  exact BitVec.and_append.trans (by rw [BitVec.and_append])

/-- A word with the row's OP has the row's bits under the mask exactly when its bits of A and IMM under the mask are 0 (R72). -/
theorem masked_eq_iff {w : Word} {op a : BitVec 8} {imm : BitVec 16} (h : opField w = op) :
    w &&& formC 0xFF#8 a imm = formC op 0#8 0#16 ↔ aField w &&& a = 0#8 ∧ immField w &&& imm = 0#16 := by
  have hop : opField w &&& 0xFF#8 = op := by rw [h]; exact BitVec.and_allOnes
  conv_lhs => rw [← formC_fields w, formC_and, hop]
  simp [formC_inj]

/-- No bit at `k` or above is set exactly when the number is below 2 to the `k`. -/
theorem and_high_eq_zero_iff {n : ℕ} (x : BitVec n) (k : ℕ) :
    x &&& (BitVec.allOnes n <<< k) = 0#n ↔ x.toNat < 2 ^ k := by
  constructor
  · intro h
    refine Nat.lt_pow_two_of_testBit _ fun j hj => ?_
    rw [BitVec.testBit_toNat]
    by_cases hjn : j < n
    · have hbit := congrArg (BitVec.getLsbD · j) h
      simpa [hjn, show ¬ j < k by omega, show j - k < n by omega] using hbit
    · exact BitVec.getLsbD_of_ge _ _ (by omega)
  · intro h
    refine BitVec.eq_of_getLsbD_eq fun j hjn => ?_
    by_cases hj : k ≤ j
    · have hx : x.getLsbD j = false := by
        rw [← BitVec.testBit_toNat]
        exact Nat.testBit_lt_two_pow (h.trans_le (Nat.pow_le_pow_right (by decide) hj))
      simp [hx]
    · simp [hjn]; omega

/-- A word of an assigned OP is decoded by its row (R74, R75). -/
theorem decode_of_row {w : Word} {r : Row} (h : rowOf (opField w) = some r) :
    decode w = if w &&& r.mask = r.value then .ok (r.build w) else .error .reservedBit := by
  unfold decode; rw [h]

end Sys2Proof.Machine
end

section
/-!
PROOFS. What each command writes (spec/10_state.md R20 to R39), the registers the host reads and writes (R22 to R32), and QNODE
(spec/41_tree.md R99).
-/

namespace Sys2Proof.Machine

/-! ### What each command writes -/

/-- Settles O51: an error writes the error registers alone, and each effect its own fields. -/
theorem eachStateIsWrittenByItsOwnCommands : Obligations.EachStateIsWrittenByItsOwnCommands := by
  intro i s t h
  obtain ⟨e, -, rfl⟩ | ⟨-, rfl⟩ := exec_cases h
  · refine ⟨?_, ?_, ?_, ?_, rfl, fun _ => ?_, fun _ => ?_, fun _ => ?_, fun _ => ?_, fun _ => ?_, fun _ => ?_, fun _ => ?_⟩ <;>
      simp
  · cases i with
    | nop => simp [effectOf]
    | clear => simp [effectOf, clearEffect]
    | setfreq sym => simp [effectOf, setfreqEffect]
    | build => simp [effectOf, buildEffect]
    | qleaves => simp [effectOf, qleavesEffect]
    | qroot => simp [effectOf, qrootEffect]
    | qnode idx sel => simp [effectOf, qnodeEffect]
    | extract => simp [effectOf, extractEffect]
    | qlen sym => simp [effectOf, qlenEffect]
    | qbits sym k => simp [effectOf, qbitsEffect]
    | encode sym => simp [effectOf, encodeEffect, State.pack]
    | pack len bits => simp [effectOf, packEffect, State.pack]
    | flush => rw [effectOf, flushEffect_frame]; simp
    | decode nbits byte => simp [effectOf, decodeEffect, State.walk]
    | decreset => simp [effectOf, decresetEffect]

/-! ### The registers as numbers (R26, R29, R31, R32) -/

theorem toNat_statusWord (s : State) : s.statusWord.toNat =
    s.busy.toNat + 2 * s.treeValid.toNat + 4 * s.codesValid.toNat + 8 * s.errF.toNat + 16 * s.lastBits.toNat +
      256 * s.nleaf.toNat + 131072 * s.ncount.toNat := by
  refine (toNat_append_eq_add ..).trans ?_
  simp only [toNat_append_eq_add, BitVec.toNat_ofBool, BitVec.toNat_ofNat]
  omega

theorem toNat_pkStat (s : State) : s.pkStat.toNat = s.pkAcc.toNat + 256 * s.pkCnt.toNat := by
  refine (toNat_append_eq_add ..).trans ?_
  simp only [toNat_append_eq_add, BitVec.toNat_ofNat]
  omega

theorem toNat_decStat (s : State) : s.decStat.toNat = s.decCur.toNat + 65536 * s.atRoot.toNat := by
  refine (toNat_append_eq_add ..).trans ?_
  simp only [toNat_append_eq_add, BitVec.toNat_ofBool, BitVec.toNat_ofNat]
  omega

theorem toNat_outData {s : State} {b : Byte} {rest : List Byte} (h : s.outq = b :: rest) :
    s.outData.toNat = b.toNat + 256 := by
  rw [State.outData, h]
  refine (toNat_append_eq_add ..).trans ?_
  simp only [toNat_append_eq_add, BitVec.toNat_ofNat]
  omega

/-- The field group 0 of a node (R99). -/
theorem toNat_nodeFields_zero (n : Node) : (nodeFields n 0#2).toNat =
    n.left.toNat + 512 * n.right.toNat + 262144 * n.symbol.toNat + 67108864 * n.consumed.toNat +
      134217728 * n.kind.code.toNat := by
  rw [nodeFields, if_pos rfl]
  refine (toNat_append_eq_add ..).trans ?_
  simp only [toNat_append_eq_add, BitVec.toNat_ofBool, BitVec.toNat_ofNat]
  omega

/-! ### Reads while idle and while busy (R187) -/

theorem quietRead_of_idle {s : State} (h : s.pending = none) (v : Word) : quietRead s v = (v, s) := by
  simp [quietRead, State.busy, h]

theorem statusRead_of_idle {s : State} (h : s.pending = none) : statusRead s = (s.statusWord, s) := by
  simp [statusRead, State.busy, h]

theorem statusRead_of_busy {s : State} (h : s.pending ≠ none) :
    statusRead s = (Config.freeWord s.freeIdx ||| 1#32, s.drawFree) := by
  simp [statusRead, State.busy, Option.isSome_iff_ne_none.mpr h]

/-- Settles O16: STATUS as a number, its fields cut out of it. -/
theorem statusShowsItsFields : Obligations.StatusShowsItsFields := by
  refine ⟨fun s => ?_, fun s hs => ?_, fun s hs => ?_, fun _ _ => rfl, by decide⟩
  · change (statusRead s).1.getLsbD 0 = s.busy
    by_cases hs : s.pending = none
    · rw [statusRead_of_idle hs]
      refine getLsbD_eq_of_div ?_
      have := s.busy.toNat_le
      rw [toNat_statusWord]; omega
    · rw [statusRead_of_busy hs]
      simp [State.busy, Option.isSome_iff_ne_none.mpr hs]
  · have hw := toNat_statusWord s
    have hread : (regRead s 0x10).1 = s.statusWord := by
      change (statusRead s).1 = _; rw [statusRead_of_idle hs]
    rw [hread]
    have := s.busy.toNat_le; have := s.treeValid.toNat_le; have := s.codesValid.toNat_le; have := s.errF.toNat_le
    have := s.lastBits.isLt; have := s.nleaf.isLt; have := s.ncount.isLt
    exact ⟨getLsbD_eq_of_div (by omega), getLsbD_eq_of_div (by omega),
      getLsbD_eq_of_div (b := s.errF) (by omega), extractLsb'_eq_of_div (by omega),
      getLsbD_eq_of_div (b := false) (by simp; omega), extractLsb'_eq_of_div (by omega),
      extractLsb'_eq_of_div (by omega), extractLsb'_eq_of_div (by simp; omega)⟩
  · change (∀ k, 0 < k → (statusRead s).1.getLsbD k = _) ∧ (statusRead s).2 = s.drawFree
    rw [statusRead_of_busy hs]
    refine ⟨fun k hk => ?_, rfl⟩
    simp [BitVec.getLsbD_one, hk.ne']

/-- ERR shows the number of the error (R27, R150). -/
theorem errRegister_eq {s : State} {e : ErrCode × Word}
    (he : e ∈ [(ErrCode.none, 0#32), (.emptyTree, 1#32), (.noTree, 2#32), (.codesStale, 3#32), (.absentSymbol, 4#32),
      (.degenerateTree, 5#32), (.illegalCmd, 6#32), (.illegalOperand, 7#32), (.overrun, 8#32)])
    (hs : s.errCode = e.1) : s.errRegister = e.2 := by
  rw [State.errRegister, hs]
  clear hs
  revert e; decide

/-- Settles O17: each register by its view, the fields cut out of it as a number. -/
theorem idleReadsReturnTheRegisters : Obligations.IdleReadsReturnTheRegisters := by
  intro s hs
  have hquiet := quietRead_of_idle hs
  have hstatus : regRead s 0x10 = (s.statusWord, s) := statusRead_of_idle hs
  have hpk : regRead s 0x24 = (s.pkStat, s) := hquiet _
  have hdec : regRead s 0x28 = (s.decStat, s) := hquiet _
  have hpkN := toNat_pkStat s
  have hdecN := toNat_decStat s
  have := s.pkAcc.isLt; have := s.pkCnt.isLt; have := s.decCur.isLt; have := s.atRoot.toNat_le
  rw [hstatus, hpk, hdec]
  dsimp only
  refine ⟨rfl, rfl, rfl, hquiet _, ?_, rfl, fun e he hse => ?_, hquiet _, rfl, extractLsb'_eq_of_div (by omega),
    extractLsb'_eq_of_div (by omega), extractLsb'_eq_of_div (by simp; omega), rfl, extractLsb'_eq_of_div (by omega),
    extractLsb'_eq_of_div (by simp; omega), ?_, extractLsb'_eq_of_div (by simp; omega), rfl⟩
  · rw [toNat_statusWord, State.busy, hs, State.errF]
    by_cases he : s.errCode = .none <;> simp [he]
  · rw [← errRegister_eq he hse]; exact hquiet _
  · rw [getLsbD_eq_of_div (b := s.atRoot) (by omega)]
    simp [State.atRoot, and_assoc]

/-- Settles O18: the oldest byte below bit 8, as a number. -/
theorem outdataReadsAndPops : Obligations.OutdataReadsAndPops := by
  refine ⟨fun s b rest h => ?_, fun s h => ?_⟩
  · change s.outData.getLsbD 8 = true ∧ s.outData.extractLsb' 0 8 = b ∧ s.outData.extractLsb' 9 23 = 0#23 ∧ s.popOut = _
    have hw := toNat_outData h
    have := b.isLt
    exact ⟨getLsbD_eq_of_div (b := true) (by simp; omega), extractLsb'_eq_of_div (by omega),
      extractLsb'_eq_of_div (by simp; omega), by rw [State.popOut, h]; rfl⟩
  · change (s.outData, s.popOut) = (0#32, s)
    have hpop : s.popOut = s := by rw [State.popOut, h, List.drop_nil, ← h]
    rw [hpop, State.outData, h]

/-! ### ARG and an issued command (R23, R57) -/

/-- Settles O22: the operand latched at the issue is the one SETFREQ enters. -/
theorem argWritesDoNotReachAnIssuedCommand : Obligations.ArgWritesDoNotReachAnIssuedCommand := by
  refine ⟨fun _ _ => rfl, fun s sym v w h => ?_⟩
  change ∃ t, exec (.setfreq sym) ((s.issue w).setArg v) = .next t ∧ _
  have hp : ((s.issue w).setArg v).pending = some ⟨w, s.arg⟩ := by simp [h]
  refine ⟨_, (exec_eq_perform ..).trans (perform_of_none rfl), ?_, rfl⟩
  simp [effectOf, setfreqEffect, State.countOperand, command_of_pending hp, symGet_symSet]

/-! ### QNODE (R99) -/

/-- The first check that holds raises its error and changes nothing else (R152, R153). -/
theorem raises_of_firstError {i : Instr} {s : State} {e : ErrCode} (h : firstError (checksOf s i) = some e) :
    Raises i s e := by
  rw [Raises, exec_eq_perform, perform_of_some h]
  by_cases he : s.errCode = .none
  · simp [raise_of_none he, he, State.complete]
  · simp [raise_of_error he, he, State.complete]

/-- The words of QNODE (R72, R73). -/
theorem decode_qnode {w : Word} (h : opField w = 0x13#8) : decode w =
    if (aField w).toNat < 4 ∧ (immField w).toNat < 512 then .ok (.qnode (idxField w) (selField w))
    else .error .reservedBit := by
  have hrow : rowOf (opField w) = some ⟨"QNODE", 0x13000000#32, 0xFFFCFE00#32, fun w => .qnode (idxField w) (selField w)⟩ := by
    rw [h]; rfl
  have hmask : w &&& 0xFFFCFE00#32 = 0x13000000#32 ↔ (aField w).toNat < 4 ∧ (immField w).toNat < 512 :=
    (masked_eq_iff (a := 0xFC#8) (imm := 0xFE00#16) h).trans
      (and_congr (and_high_eq_zero_iff (aField w) 2) (and_high_eq_zero_iff (immField w) 9))
  rw [decode_of_row hrow]
  simp only [hmask]

/-- Settles O35: the checks in order, then the entry's fields cut out of the result as a number. -/
theorem qnodeReportsTheFieldGroup : Obligations.QnodeReportsTheFieldGroup := by
  refine ⟨fun w h => decode_qnode h, fun s idx sel => ⟨fun hsel => ?_, fun hsel hv => ?_, fun hsel hv hle => ?_,
    fun hsel hv hlt => ?_⟩⟩
  · exact raises_of_firstError (by simp [checksOf, qnodeChecks, selBad, firstError, hsel])
  · exact raises_of_firstError (by simp [checksOf, qnodeChecks, selBad, firstError, hsel, hv])
  · exact raises_of_firstError (by simp [checksOf, qnodeChecks, selBad, firstError, hsel, hv, hle])
  · have hnone : firstError (checksOf s (.qnode idx sel)) = none := by
      simp [checksOf, qnodeChecks, selBad, firstError, hsel, hv, hlt]
    refine ⟨nodeFields (nodeAt s.node idx.toNat) sel, (exec_eq_perform ..).trans (perform_of_none hnone), ?_⟩
    generalize nodeAt s.node idx.toNat = n
    refine ⟨?_, ?_, ?_⟩ <;> rintro rfl
    · have hw := toNat_nodeFields_zero n
      have := n.left.isLt; have := n.right.isLt; have := n.symbol.isLt; have := n.consumed.toNat_le
      have := n.kind.code.isLt
      have hkind : (nodeFields n 0#2).extractLsb' 27 2 = n.kind.code := extractLsb'_eq_of_div (by omega)
      exact ⟨extractLsb'_eq_of_div (by omega), extractLsb'_eq_of_div (by omega), extractLsb'_eq_of_div (by omega),
        getLsbD_eq_of_div (by omega), extractLsb'_eq_of_div (by simp; omega), fun hk => by rw [hkind, hk]; rfl,
        fun hk => by rw [hkind, hk]; rfl, fun hk => by rw [hkind, hk]; rfl⟩
    · simp [nodeFields]
    · have := n.weight.isLt
      simp [nodeFields, Nat.shiftRight_eq_div_pow]; omega

end Sys2Proof.Machine
end

section
/-!
PROOFS. The step of the machine, case by case (spec/20_memory.md R45 to R49): which accesses it refuses, what the core step does with
the pending word, how many bytes a command emits, and that the queue keeps its bound.
-/

namespace Sys2Proof.Machine

/-! ### The step as an equation -/

theorem setSched_nil {s : State} (h : s.sched = []) : s.setSched [] = s := by rw [← h]; rfl

theorem step_of_nil {s : State} (h : s.sched = []) : step s = coreStep s := by
  rw [step_of_coreMoves (.inl ⟨h, rfl⟩), setSched_nil h]

theorem step_of_cons {s : State} {e : Event} {rest : List Event} (h : s.sched = e :: rest) :
    step s = happen e (s.setSched rest) := by
  simp only [step, advance, h]

theorem coreStep_of_idle {s : State} (h : s.pending = none) : coreStep s = .next s := by simp only [coreStep, h]

section
variable {s : State} {p : Pending} (hp : s.pending = some p)
include hp

theorem coreStep_of_held (hh : held s p.word = true) : coreStep s = .next s := by simp only [coreStep, hp, hh, if_true]

theorem coreStep_of_lockedOut (hh : held s p.word = false) (hl : lockedOut s p.word = true) :
    coreStep s = .next s.complete := by
  simp [coreStep, hp, hh, hl]

theorem coreStep_of_taken (hh : held s p.word = false) (hl : lockedOut s p.word = false) : coreStep s = execute p s := by
  simp [coreStep, hp, hh, hl]

end

theorem execute_of_ok {p : Pending} {s : State} {i : Instr} (h : decode p.word = .ok i) : execute p s = exec i s := by
  simp only [execute, h]

theorem execute_of_error {p : Pending} {s : State} {e : DecodeError} (h : decode p.word = .error e) :
    execute p s = .next (s.raise .illegalCmd p.word).complete := by
  simp only [execute, h]

/-- A command always completes (R47, R153). -/
theorem exec_next (i : Instr) (s : State) : ∃ t, exec i s = .next t ∧ t.pending = none ∧ t.sched = s.sched := by
  obtain ⟨t, ht⟩ : ∃ t, exec i s = .next t := by
    rw [exec_eq_perform]
    cases hc : firstError (checksOf s i) with
    | none => exact ⟨_, perform_of_none hc⟩
    | some e => exact ⟨_, perform_of_some hc⟩
  obtain ⟨-, hsched, -, -, hpending, -⟩ := eachStateIsWrittenByItsOwnCommands i s t ht
  exact ⟨t, ht, hpending, hsched⟩

/-- A core step that takes the pending word empties PENDING (R47). -/
theorem coreStep_takes {s : State} {p : Pending} (hp : s.pending = some p) (hh : held s p.word = false) :
    ∃ t, coreStep s = .next t ∧ t.pending = none ∧ t.sched = s.sched := by
  cases hl : lockedOut s p.word with
  | true => exact ⟨_, coreStep_of_lockedOut hp hh hl, rfl, rfl⟩
  | false =>
    rw [coreStep_of_taken hp hh hl]
    cases hd : decode p.word with
    | ok i => rw [execute_of_ok hd]; exact exec_next i s
    | error e => exact ⟨_, execute_of_error hd, by simp, by simp⟩

/-- The core's move is always a step (R166; notes/assumptions/2.md). -/
theorem coreStep_next (s : State) : ∃ t, coreStep s = .next t ∧ t.sched = s.sched := by
  cases hp : s.pending with
  | none => exact ⟨s, coreStep_of_idle hp, rfl⟩
  | some p =>
    cases hh : held s p.word with
    | true => exact ⟨s, coreStep_of_held hp hh, rfl⟩
    | false => obtain ⟨t, ht, -, hsched⟩ := coreStep_takes hp hh; exact ⟨t, ht, hsched⟩

/-! ### The accesses admitted (R45) -/

/-- The window answers an offset exactly for the accesses of R45. -/
theorem windowOffset_eq_none_iff {addr size : ℕ} : windowOffset addr size = none ↔ ¬ Admitted addr size := by
  constructor
  · rintro h ⟨rfl, off, rfl, hoff, h4⟩
    rw [windowOffset_base hoff h4] at h; cases h
  · intro h
    refine if_neg fun ⟨hsize, hbase, hlt, h4⟩ => h ⟨hsize, addr - Config.base, by omega, hlt, h4⟩

theorem hostRead_of_offset {s : State} {addr size off : ℕ} (h : windowOffset addr size = some off) :
    hostRead s addr size = .next ((regRead s off).2.observe (regRead s off).1) := by
  simp only [hostRead, h]

theorem hostWrite_of_offset {s : State} {addr size off : ℕ} (h : windowOffset addr size = some off) (v : Word) :
    hostWrite s addr size v = .next (regWrite s off v) := by
  simp only [hostWrite, h]

theorem hostRead_of_none {s : State} {addr size : ℕ} (h : windowOffset addr size = none) :
    hostRead s addr size = .refused .accessNotAdmitted := by
  simp only [hostRead, h]

theorem hostWrite_of_none {s : State} {addr size : ℕ} (h : windowOffset addr size = none) (v : Word) :
    hostWrite s addr size v = .refused .accessNotAdmitted := by
  simp only [hostWrite, h]

@[simp] theorem regRead_sched (s : State) (off : ℕ) : (regRead s off).2.sched = s.sched := by
  obtain h | h | ⟨-, h⟩ := regRead_state s off <;> rw [h] <;> rfl

@[simp] theorem regRead_reads (s : State) (off : ℕ) : (regRead s off).2.reads = s.reads := by
  obtain h | h | ⟨-, h⟩ := regRead_state s off <;> rw [h] <;> rfl

@[simp] theorem regWrite_sched (s : State) (off : ℕ) (v : Word) : (regWrite s off v).sched = s.sched := by
  obtain ⟨-, h⟩ | ⟨-, h⟩ | ⟨-, -, h⟩ := regWrite_cases s off v <;> simp [h]

/-- Settles O12: the core's move and the reset input always answer, an admitted access finds its offset, and none of them touches
the schedule. -/
theorem admittedRunsNeverStop : Obligations.AdmittedRunsNeverStop := by
  intro s hs
  suffices h : ∃ t, step s = .next t ∧ t.sched = s.sched.tail by
    obtain ⟨t, ht, hsched⟩ := h
    exact ⟨t, ht, fun e he => hs e (List.mem_of_mem_tail (hsched ▸ he))⟩
  cases hsched : s.sched with
  | nil =>
    obtain ⟨t, ht, hkeeps⟩ := coreStep_next s
    exact ⟨t, by rw [step_of_nil hsched, ht], by rw [hkeeps, hsched]; rfl⟩
  | cons e rest =>
    have he := hs e (by simp [hsched])
    rw [step_of_cons hsched]
    cases e with
    | core => exact coreStep_next _
    | reset => exact ⟨_, rfl, rfl⟩
    | hostRead addr size =>
      obtain ⟨off, hoff⟩ := Option.isSome_iff_exists.mp he
      exact ⟨_, hostRead_of_offset hoff, by simp⟩
    | hostWrite addr size v =>
      obtain ⟨off, hoff⟩ := Option.isSome_iff_exists.mp he
      exact ⟨_, hostWrite_of_offset hoff v, by simp⟩

/-- Settles O11: only an access to which the window answers no offset is refused. -/
theorem onlyUnadmittedAccessesAreRefused : Obligations.OnlyUnadmittedAccessesAreRefused := by
  intro s r
  constructor
  · intro h
    cases hsched : s.sched with
    | nil =>
      obtain ⟨t, ht, -⟩ := coreStep_next s
      rw [step_of_nil hsched, ht] at h; cases h
    | cons e rest =>
      rw [step_of_cons hsched] at h
      cases e with
      | core =>
        obtain ⟨t, ht, -⟩ := coreStep_next (s.setSched rest)
        rw [happen, ht] at h; cases h
      | reset => cases h
      | hostRead addr size =>
        cases hoff : windowOffset addr size with
        | some off => rw [happen, hostRead_of_offset hoff] at h; cases h
        | none =>
          rw [happen, hostRead_of_none hoff] at h; cases h
          exact ⟨rfl, addr, size, rest, windowOffset_eq_none_iff.mp hoff, .inl rfl⟩
      | hostWrite addr size v =>
        cases hoff : windowOffset addr size with
        | some off => rw [happen, hostWrite_of_offset hoff] at h; cases h
        | none =>
          rw [happen, hostWrite_of_none hoff] at h; cases h
          exact ⟨rfl, addr, size, rest, windowOffset_eq_none_iff.mp hoff, .inr ⟨v, rfl⟩⟩
  · rintro ⟨rfl, addr, size, rest, hadm, hsched | ⟨v, hsched⟩⟩ <;> rw [step_of_cons hsched, happen]
    · exact hostRead_of_none (windowOffset_eq_none_iff.mpr hadm)
    · exact hostWrite_of_none (windowOffset_eq_none_iff.mpr hadm) v

/-- Settles O23: the access finds its offset. -/
theorem admittedAccessesReachTheirRegister : Obligations.AdmittedAccessesReachTheirRegister := by
  intro s off rest hoff h4
  have hwindow := windowOffset_base hoff h4
  refine ⟨fun h => ?_, fun v h => ?_⟩ <;> rw [step_of_cons h, happen]
  · rw [hostRead_of_offset hwindow, State.observe, regRead_reads]; rfl
  · exact hostWrite_of_offset hwindow v

/-! ### The bytes a command emits (R124) -/

/-- A packing step emits a byte when the packer is full, and holds one bit more otherwise (R120). -/
theorem packBit_count (p : Packer) (b : Bool) :
    8 * (packBit p b).out.length + (packBit p b).cnt.toNat = 8 * p.out.length + p.cnt.toNat + 1 := by
  unfold packBit
  by_cases hc : p.cnt = 7#3
  · simp [hc]; omega
  · have := p.cnt.isLt
    have : p.cnt.toNat ≠ 7 := fun h => hc (BitVec.eq_of_toNat_eq h)
    simp only [hc, if_false, BitVec.toNat_add, BitVec.toNat_ofNat]
    omega

/-- The bits packed are those in the bytes emitted and those still held (R120). -/
theorem packBits_count (p : Packer) (bits : List Bool) :
    8 * (packBits p bits).out.length + (packBits p bits).cnt.toNat = 8 * p.out.length + p.cnt.toNat + bits.length := by
  induction bits generalizing p with
  | nil => rfl
  | cons b bits ih =>
    have := packBit_count p b
    have := ih (packBit p b)
    simp only [packBits, List.foldl_cons, List.length_cons] at this ⊢
    omega

theorem walkBit_length_le (arena : Vector Node 511) (root : NodeIdx) (x : Walk) (b : Bool) :
    (walkBit arena root x b).out.length ≤ x.out.length + 1 := by
  simp only [walkBit]; split <;> split <;> simp

/-- A walk emits at most one symbol for each bit (R140). -/
theorem walkBits_length_le (arena : Vector Node 511) (root : NodeIdx) (x : Walk) (bits : List Bool) :
    (walkBits arena root x bits).out.length ≤ x.out.length + bits.length := by
  induction bits generalizing x with
  | nil => exact le_rfl
  | cons b bits ih =>
    refine (ih (walkBit arena root x b)).trans ?_
    have := walkBit_length_le arena root x b
    rw [List.length_cons]; omega

/-- The effect of a command without an error appends bytes within the command's bound (R124). -/
theorem outq_effectOf {s : State} {i : Instr} (hc : firstError (checksOf s i) = none) :
    ∃ bytes, (effectOf s i).outq = s.outq ++ bytes ∧ bytes.length ≤ emitBound i := by
  cases i with
  | encode sym =>
    refine ⟨_, rfl, ?_⟩
    have hcount := packBits_count s.packer (lowBits (symGet s.codeBits sym) (symGet s.codeLen sym).toNat)
    have := (symGet s.codeLen sym).isLt
    have := s.pkCnt.isLt
    simp only [length_lowBits, State.packer, List.length_nil] at hcount
    simp only [emitBound, State.packer]; omega
  | pack len bits =>
    refine ⟨_, rfl, ?_⟩
    have hlen : len.toNat ≤ 16 := by
      have := firstError_eq_none.mp hc _ (List.mem_cons_self ..)
      simpa [lenBad] using this
    have hcount := packBits_count s.packer (lowBits bits len.toNat)
    have := s.pkCnt.isLt
    simp only [length_lowBits, State.packer, List.length_nil] at hcount
    simp only [emitBound, State.packer]; omega
  | flush =>
    simp only [effectOf, flushEffect]
    split
    · exact ⟨[s.pkAcc], rfl, le_rfl⟩
    · exact ⟨[], by simp, Nat.zero_le _⟩
  | decode nbits byte =>
    refine ⟨_, rfl, ?_⟩
    have hbits : nbits.toNat ≤ 8 := by
      have := firstError_eq_none.mp hc _ (List.mem_cons_self ..)
      simp only [nbitsBad, Bool.or_eq_false_iff, decide_eq_false_iff_not] at this; omega
    refine (walkBits_length_le ..).trans ?_
    simpa [emitBound] using hbits
  | nop | clear | setfreq | build | qleaves | qroot | qnode | extract | qlen | qbits | decreset =>
    exact ⟨[], (List.append_nil _).symm, Nat.zero_le _⟩

/-- Settles O50: an error emits nothing, an effect stays within its bound. -/
theorem commandsEmitWithinTheirBounds : Obligations.CommandsEmitWithinTheirBounds := by
  intro i s t h
  obtain ⟨e, -, rfl⟩ | ⟨hc, rfl⟩ := exec_cases h
  · exact ⟨[], by simp, Nat.zero_le _⟩
  · exact outq_effectOf hc

/-! ### The hold and the queue's bound (R48) -/

theorem mem_of_rowOf {op : BitVec 8} {r : Row} (h : rowOf op = some r) : r ∈ opcodeTable ∧ opField r.value = op := by
  unfold rowOf at h
  exact ⟨List.mem_of_find?_eq_some h, by simpa using List.find?_some h⟩

/-- A word decodes to a command of its own OP value (R72, R75). -/
theorem opField_of_decode {w : Word} {i : Instr} (h : decode w = .ok i) : opField w = Laws.OpField.opcode i := by
  unfold decode at h
  split at h
  · cases h
  next r hr =>
    split at h <;> cases h
    obtain ⟨hmem, hop⟩ := mem_of_rowOf hr
    rw [← hop]
    simp only [opcodeTable, List.mem_cons, List.not_mem_nil, or_false] at hmem
    obtain rfl | rfl | rfl | rfl | rfl | rfl | rfl | rfl | rfl | rfl | rfl | rfl | rfl | rfl | rfl := hmem <;> rfl

theorem isEmitting_iff {w : Word} : isEmitting w = true ↔ opField w ∈ [0x30#8, 0x31#8, 0x32#8, 0x40#8] :=
  List.contains_iff_mem

/-- A command that can emit is one the hold judges (R48, R124). -/
theorem isEmitting_of_emitBound {w : Word} {i : Instr} (h : decode w = .ok i) (hi : emitBound i ≠ 0) :
    isEmitting w = true := by
  rw [isEmitting_iff, opField_of_decode h]
  cases i with
  | encode | pack | flush | decode => simp [Laws.OpField.opcode]
  | nop | clear | setfreq | build | qleaves | qroot | qnode | extract | qlen | qbits | decreset => exact absurd rfl hi

theorem emitBound_le (i : Instr) : emitBound i ≤ Config.emitMax := by
  cases i <;> simp [emitBound, Config.emitMax]

/-- What is not held has room for all it can emit (R48, R124). -/
theorem room_of_not_held {s : State} {w : Word} {i : Instr} (hs : QueueOk s) (hd : decode w = .ok i)
    (hh : held s w = false) : s.outq.length + emitBound i ≤ Config.oqDepth := by
  by_cases hi : emitBound i = 0
  · rw [hi]; exact hs
  · have := emitBound_le i
    have hroom : ¬ Config.oqDepth < s.outq.length + Config.emitMax := fun h =>
      Bool.false_ne_true (hh ▸ held_iff.mpr ⟨isEmitting_of_emitBound hd hi, h⟩)
    omega

theorem StepTo.queueOk {s t : State} (h : StepTo s t) (hs : QueueOk s) : QueueOk t := by
  cases h with
  | idle | discards | setsArg => exact hs
  | raises | issues => simpa [QueueOk] using hs
  | resets => exact Nat.zero_le _
  | reads hr =>
    obtain rfl | rfl | rfl := hr
    · exact hs
    · exact hs
    · exact (List.drop_sublist ..).length_le.trans hs
  | runs _ hh _ hd hc =>
    obtain ⟨bytes, hbytes, hlen⟩ := outq_effectOf hc
    have hroom := room_of_not_held hs hd hh
    rw [QueueOk, State.complete_outq, hbytes, List.length_append]
    omega

/-- Settles O53: a command that runs is not held, so the queue has room for its bound; nothing else appends. -/
theorem stepKeepsTheQueueBound : Obligations.StepKeepsTheQueueBound := by
  intro s t hs h
  obtain ⟨rest, hstep⟩ := step_stepTo h
  exact hstep.queueOk hs

/-- Settles O8: the core step's cases of the hold. -/
theorem emittingCommandsWaitForRoom : Obligations.EmittingCommandsWaitForRoom := by
  refine ⟨fun s rest p hm hp => ⟨fun hop hlen => ?_, fun hroom => ?_⟩, fun s rest hm hp => ?_⟩ <;> rw [step_of_coreMoves hm]
  · refine coreStep_of_held (s := s.setSched rest) hp ?_
    rw [held_setSched, held_iff, isEmitting_iff]
    exact ⟨hop, by simp only [Config.emitMax]; omega⟩
  · refine coreStep_takes (s := s.setSched rest) hp ?_
    rw [held_setSched, Bool.eq_false_iff, Ne, held_iff, isEmitting_iff]
    rintro ⟨hop, hlen⟩
    simp only [Config.oqDepth, Config.emitMax] at hlen hroom
    exact hroom.elim (fun h => h hop) fun h => by omega
  · exact coreStep_of_idle (s := s.setSched rest) hp

/-! ### The core step and the lockout (R47, R154, R155) -/

/-- Settles O6: the word is taken, and decodes. -/
theorem stepRunsTheDecodedCommand : Obligations.StepRunsTheDecodedCommand := by
  intro s p i hp hd hh hl
  have hruns : ∀ rest, coreStep (s.setSched rest) = exec i (s.setSched rest) := fun rest =>
    (coreStep_of_taken (s := s.setSched rest) hp hh hl).trans (execute_of_ok hd)
  refine ⟨fun hsched => ?_, fun rest hsched => ?_⟩
  · rw [step_of_nil hsched, ← setSched_nil hsched]; exact hruns []
  · rw [step_of_coreMoves (.inr hsched)]; exact hruns rest

/-- The words of CLEAR (R86). -/
theorem decode_clear {w : Word} (h : opField w = 0x01#8) :
    decode w = if w = 0x01000000#32 then .ok .clear else .error .reservedBit := by
  have hrow : rowOf (opField w) = some ⟨"CLEAR", 0x01000000#32, 0xFFFFFFFF#32, fun _ => .clear⟩ := by rw [h]; rfl
  have hmask : w &&& 0xFFFFFFFF#32 = w := BitVec.and_allOnes
  rw [decode_of_row hrow]
  simp only [hmask]

/-- Settles O7: the lockout takes all but CLEAR's OP; under that OP the word is CLEAR's, or raises an error that is not recorded. -/
theorem lockoutDiscardsAllButClear : Obligations.LockoutDiscardsAllButClear := by
  intro s rest p hm hp he hh
  rw [step_of_coreMoves hm]
  have htaken : opField p.word = 0x01#8 → coreStep (s.setSched rest) = execute p (s.setSched rest) := fun hop =>
    coreStep_of_taken (s := s.setSched rest) hp hh (by simp [lockedOut, hop])
  refine ⟨fun hop => ?_, fun hw => ?_, fun hop hw => ?_⟩
  · exact coreStep_of_lockedOut (s := s.setSched rest) hp hh (lockedOut_iff.mpr ⟨he, hop⟩)
  · rw [htaken (by rw [hw]; rfl), execute_of_ok (by rw [hw]; rfl)]
  · rw [htaken hop, execute_of_error ((decode_clear hop).trans (if_neg hw)), raise_of_error (s := s.setSched rest) he]
    rfl

/-! ### The register window (R44, R46) -/

/-- Settles O20: CMD and ARG are the only registers a write reaches, and the rest of the window reads 0. -/
theorem ignoredWritesAndReservedReads : Obligations.IgnoredWritesAndReservedReads := by
  refine fun s => ⟨fun v off hoff => ?_, fun off hoff => ?_, rfl⟩
  · obtain ⟨rfl, -⟩ | ⟨rfl, -⟩ | ⟨-, -, h⟩ := regWrite_cases s off v
    · simp at hoff
    · simp at hoff
    · exact h
  · simp only [List.mem_cons, List.not_mem_nil, or_false] at hoff
    obtain rfl | rfl | rfl | rfl | rfl := hoff <;> rfl

/-- Settles O21: the issue of a command, idle and busy. -/
theorem cmdWriteIssuesOrOverruns : Obligations.CmdWriteIssuesOrOverruns := by
  intro s v
  change (_ → s.issue v = _) ∧ (_ → _ → s.issue v = _) ∧ (_ → _ → s.issue v = s) ∧ (s.issue v).busy = true
  cases hp : s.pending with
  | none => simp [issue_of_idle hp, State.busy]
  | some p =>
    refine ⟨nofun, fun _ he => ?_, fun _ he => ?_, ?_⟩
    · rw [issue_of_busy hp, raise_of_none he, ← hp]
    · rw [issue_of_busy hp, raise_of_error he]
    · simp [issue_of_busy hp, State.busy, hp]

end Sys2Proof.Machine
end

section
/-!
PROOFS. The header of a container as the host reads it (spec/20_memory.md R60, R65, R66, R68).
-/

namespace Sys2Proof.Machine

/-- The entries of a header as bytes (R60). -/
def entryBytes (entries : List (Byte × BitVec 32)) : List Byte := entries.flatMap fun e => e.1 :: le32 e.2

theorem length_entryBytes (entries : List (Byte × BitVec 32)) : (entryBytes entries).length = 5 * entries.length := by
  simp [entryBytes, le32, List.length_flatMap, Nat.mul_comm]

theorem hostDecode_of_short {core : State} {m : Byte} {body : List Byte} (h : body.length < 5 * (m.toNat + 1)) :
    hostDecode core (m :: body) = .error ⟨[], core⟩ := by
  simp only [hostDecode, takeEntries_of_short _ h]

section
variable {core : State} {m : Byte} {entries : List (Byte × BitVec 32)} (hm : entries.length = m.toNat + 1)
include hm

theorem takeEntries_entryBytes (rest : List Byte) : takeEntries (m.toNat + 1) (entryBytes entries ++ rest) = some (entries, rest) := by
  rw [← hm]; exact takeEntries_entries entries rest

theorem hostDecode_of_unordered (h : ascending entries = false) (rest : List Byte) :
    hostDecode core (m :: (entryBytes entries ++ rest)) = .error ⟨[], core⟩ := by
  simp [hostDecode, takeEntries_entryBytes hm, h]

/-- A container of one entry needs no payload (R68). -/
theorem hostDecode_of_one {sym : Byte} {count : BitVec 32} (h : entries = [(sym, count)]) (rest : List Byte) :
    hostDecode core (m :: (entryBytes entries ++ rest)) = .ok
      ⟨(hostBuild core entries).out ++ List.replicate count.toNat sym, 6, (hostBuild core entries).core⟩ := by
  simp only [hostDecode, takeEntries_entryBytes hm]
  rw [h]; rfl

variable (hsorted : ascending entries = true) (htwo : 1 ≤ m.toNat)
include hsorted htwo

theorem hostDecode_of_no_count :
    hostDecode core (m :: (entryBytes entries ++ [])) = .error ⟨(hostBuild core entries).out, (hostBuild core entries).core⟩ := by
  simp only [hostDecode, takeEntries_entryBytes hm, hsorted, if_true]
  split
  · rw [List.length_singleton] at hm; omega
  · rfl

/-- A container of two entries or more: the last-byte bit count is checked, then the payload is decoded (R65, R66). -/
theorem hostDecode_of_payload (k : Byte) (payload : List Byte) :
    hostDecode core (m :: (entryBytes entries ++ k :: payload)) =
      if 7 < k.toNat ∨ (payload = [] ∧ k ≠ 0#8) then
        .error ⟨(hostBuild core entries).out, (hostBuild core entries).core⟩
      else
        .ok ⟨(decodePayload k payload (hostBuild core entries)).out, 2 + 5 * entries.length,
          (decodePayload k payload (hostBuild core entries)).core⟩ := by
  simp only [hostDecode, takeEntries_entryBytes hm, hsorted, if_true]
  split
  · rw [List.length_singleton] at hm; omega
  · by_cases h7 : 7 < k.toNat
    · simp only [h7, true_or, if_true]
    · simp only [h7, false_or, if_false]

end

/-- Settles O59: each error is the answer of its own check. -/
theorem malformedHeadersAreFormatErrors : Obligations.MalformedHeadersAreFormatErrors := by
  refine ⟨fun core m body h => hostDecode_of_short h, fun core m entries rest hm => ⟨fun hsym => ?_, fun hsym htwo hrest => ?_⟩⟩
  · exact hostDecode_of_unordered hm (Bool.eq_false_iff.mpr fun h => hsym ((ascending_iff entries).mp h)) rest
  · have hsorted := (ascending_iff entries).mpr hsym
    obtain rfl | ⟨k, payload, rfl, hk⟩ := hrest
    · exact hostDecode_of_no_count hm hsorted htwo
    · exact (hostDecode_of_payload hm hsorted htwo k payload).trans (if_pos hk)

end Sys2Proof.Machine
end

section
/-!
PROOFS. Paths and codes on a built forest (spec/42_codes.md R105 to R107, spec/44_unpack.md R140): a child's path is its parent's and one
edge more, the code table holds the leaves' paths, and the walk over a leaf's path emits the leaf's symbol.
-/

namespace Sys2Proof.Machine

/-! ### The path to a child (R105) -/

theorem climb_drop {f : List Node} {i : ℕ} (hi : i < f.length) (c : ℕ) :
    climb (f.drop i) i c =
      if (forestAt f i).kind = .internal ∧ (forestAt f i).left.toNat = c then climb (f.drop (i + 1)) (i + 1) i ++ [false]
      else if (forestAt f i).kind = .internal ∧ (forestAt f i).right.toNat = c then climb (f.drop (i + 1)) (i + 1) i ++ [true]
      else climb (f.drop (i + 1)) (i + 1) c := by
  rw [List.drop_eq_getElem_cons hi, climb, ← forestAt_eq_getElem hi]

/-- The climb passes every node that is no parent. -/
theorem climb_skip {f : List Node} {i p c : ℕ} (hip : i ≤ p) (hp : p ≤ f.length)
    (hnone : ∀ q, i ≤ q → q < p → ¬ ParentOf f q c) : climb (f.drop i) i c = climb (f.drop p) p c := by
  induction p, hip using Nat.le_induction with
  | base => rfl
  | succ p hip ih =>
    rw [ih (by omega) fun q hiq hqp => hnone q hiq (by omega), climb_drop hp]
    have hp' := hnone p hip (Nat.lt_succ_self p)
    rw [if_neg fun h => hp' ⟨hp, h.1, .inl h.2⟩, if_neg fun h => hp' ⟨hp, h.1, .inr h.2⟩]

/-- The root's path is empty (R105). -/
theorem codePath_root (f : List Node) : codePath f (f.length - 1) = [] := by
  rw [codePath, List.drop_eq_nil_of_le (by omega)]; rfl

/-- The child of a node on the edge `b`: left on 0, right on 1 (R105, R140). -/
def Node.child (x : Node) (b : Bool) : NodeIdx := if b then x.right else x.left

namespace ForestShape

variable {f : List Node} {n : ℕ} (h : ForestShape f n)
include h

theorem child_lt {p : ℕ} (hnp : n ≤ p) (hp : p < f.length) (b : Bool) : ((forestAt f p).child b).toNat < p := by
  obtain ⟨-, -, hl, hr, -⟩ := h.internal p hnp hp
  cases b
  · exact hl
  · exact hr

/-- A child's path is its parent's, then the edge to the child (R105). -/
theorem codePath_child {p : ℕ} (hnp : n ≤ p) (hp : p < f.length) (b : Bool) :
    codePath f ((forestAt f p).child b).toNat = codePath f p ++ [b] := by
  obtain ⟨hk, -, -, -, hne⟩ := h.internal p hnp hp
  have hlt := h.child_lt hnp hp b
  have hparent : ParentOf f p ((forestAt f p).child b).toNat :=
    ⟨hp, hk, by cases b; exacts [.inl rfl, .inr rfl]⟩
  obtain ⟨p', -, huniq⟩ := h.parent ((forestAt f p).child b).toNat (by omega)
  have hskip := climb_skip (f := f) (c := ((forestAt f p).child b).toNat) hlt hp.le fun q _ hqp hq => by
    have := huniq q hq; have := huniq p hparent; omega
  rw [codePath, hskip, climb_drop hp]
  cases b with
  | false => rw [if_pos ⟨hk, rfl⟩]; rfl
  | true => rw [if_neg fun hl => hne (BitVec.eq_of_toNat_eq hl.2), if_pos ⟨hk, rfl⟩]; rfl

/-- Every node but the root is the child of an internal node above it (R96 (4)). -/
theorem exists_child {c : ℕ} (hc : c + 1 < f.length) :
    ∃ p b, n ≤ p ∧ p < f.length ∧ ((forestAt f p).child b).toNat = c := by
  obtain ⟨p, ⟨hp, hk, hedge⟩, -⟩ := h.parent c hc
  have hnp : n ≤ p := by
    by_contra hlt
    rw [(h.leaf p (by omega)).1] at hk; cases hk
  obtain hl | hr := hedge
  · exact ⟨p, false, hnp, hp, hl⟩
  · exact ⟨p, true, hnp, hp, hr⟩

end ForestShape

/-! ### Bit strings as numbers (R7) -/

theorem testBit_bitsOf (l : List Bool) (j : ℕ) : (bitsOf l).testBit j = l[j]?.getD false := by
  induction l generalizing j with
  | nil => simp [bitsOf]
  | cons b l ih =>
    have hbit : bitsOf (b :: l) = Nat.bit b (bitsOf l) := by rw [bitsOf, Nat.bit_val, Nat.add_comm]
    cases j with
    | zero => rw [hbit, Nat.testBit_bit_zero]; rfl
    | succ j => rw [hbit, Nat.testBit_bit_succ, ih, List.getElem?_cons_succ]

/-- A bit string is read back from its number (R7). -/
theorem lowBits_bitsOf {m : ℕ} {l : List Bool} (h : l.length ≤ m) : lowBits (BitVec.ofNat m (bitsOf l)) l.length = l := by
  refine List.ext_getElem (length_lowBits ..) fun j hj hjl => ?_
  simp only [lowBits, List.getElem_map, List.getElem_range, BitVec.getLsbD_ofNat, testBit_bitsOf, List.getElem?_eq_getElem hjl,
    Option.getD_some, decide_eq_true (hjl.trans_le h), Bool.true_and]

theorem lowBits_succ {m : ℕ} (v : BitVec m) (n : ℕ) : lowBits v (n + 1) = lowBits v n ++ [v.getLsbD n] := by
  simp [lowBits, List.range_succ]

/-! ### The code table of a forest (R106) -/

theorem codeTable_succ (f : List Node) (k : ℕ) :
    codeTable f (k + 1) = (codeTable f k).enter (forestAt f k).symbol (codePath f k) := by
  rw [codeTable, List.range_succ, List.foldl_append]; rfl

/-- A symbol in the table is a leaf's. -/
theorem exists_leaf_of_valid {f : List Node} {k : ℕ} {b : Byte} (hb : symGet (codeTable f k).valid b = true) :
    ∃ i < k, (forestAt f i).symbol = b := by
  induction k with
  | zero => simp [codeTable, CodeTable.empty] at hb
  | succ k ih =>
    rw [codeTable_succ, CodeTable.enter, symGet_symSet] at hb
    split at hb
    next hk => exact ⟨k, Nat.lt_succ_self k, hk⟩
    next => obtain ⟨i, hi, hs⟩ := ih hb; exact ⟨i, hi.trans (Nat.lt_succ_self k), hs⟩

/-- The table has, for the symbol of every leaf entered, the length and the number of the leaf's path (R106). -/
theorem codeTable_leaf {f : List Node} {n : ℕ} (h : ForestShape f n) {k i : ℕ} (hk : k ≤ n) (hi : i < k) :
    symGet (codeTable f k).valid (forestAt f i).symbol = true ∧
    symGet (codeTable f k).len (forestAt f i).symbol = BitVec.ofNat 8 (codePath f i).length ∧
    symGet (codeTable f k).bits (forestAt f i).symbol = BitVec.ofNat 256 (bitsOf (codePath f i)) := by
  induction k with
  | zero => omega
  | succ k ih =>
    simp only [codeTable_succ, CodeTable.enter, symGet_symSet]
    obtain hi | rfl := Nat.lt_succ_iff_lt_or_eq.mp hi
    · have hne : (forestAt f k).symbol ≠ (forestAt f i).symbol := fun he =>
        (h.ascending i k hi (by omega)).ne' (congrArg BitVec.toNat he)
      simp only [if_neg hne]
      exact ih (by omega) hi
    · simp only [if_true, and_self]

section
variable {s : State} (hc : CodesOk s) (hv : s.codesValid = true)
include hc hv

theorem treeValid_of_codesOk : s.treeValid = true := by
  obtain ⟨-, hcodes⟩ := hc
  exact (hcodes hv).1

theorem codeTable_of_codesOk : (⟨s.codeValid, s.codeLen, s.codeBits⟩ : CodeTable) = codeTable s.forest s.nleaf.toNat := by
  obtain ⟨-, hcodes⟩ := hc
  obtain ⟨-, -, htable, -⟩ := hcodes hv
  exact htable

variable (ht : TreeOk s)
include ht

/-- While the codes are valid every leaf's symbol has a code, and it is the leaf's path (R105, R106). -/
theorem codeOf_leaf {i : ℕ} (hi : i < s.nleaf.toNat) :
    symGet s.codeValid (forestAt s.forest i).symbol = true ∧ s.codeOf (forestAt s.forest i).symbol = codePath s.forest i := by
  have hshape := ht.shape (treeValid_of_codesOk hc hv)
  obtain ⟨hvalid, hlen, hbits⟩ := codeTable_leaf hshape le_rfl hi
  rw [← codeTable_of_codesOk hc hv] at hvalid hlen hbits
  have hpath : (codePath s.forest i).length ≤ 255 := by
    have := hshape.length_codePath_le i; have := hshape.bound; omega
  refine ⟨hvalid, ?_⟩
  rw [State.codeOf, hlen, hbits, BitVec.toNat_ofNat, Nat.mod_eq_of_lt (by omega)]
  exact lowBits_bitsOf (by omega)

/-- A symbol with a code is a leaf's, and its code is the leaf's path. -/
theorem exists_leaf_of_code {b : Byte} (hb : symGet s.codeValid b = true) :
    ∃ i < s.nleaf.toNat, (nodeAt s.node i).symbol = b ∧ s.codeOf b = codePath s.forest i := by
  have hv' := treeValid_of_codesOk hc hv
  have hb' : symGet (codeTable s.forest s.nleaf.toNat).valid b = true := by
    rw [← codeTable_of_codesOk hc hv]; exact hb
  obtain ⟨i, hi, rfl⟩ := exists_leaf_of_valid hb'
  exact ⟨i, hi, by rw [forestAt_forest s (by have := ht.ncount_eq hv'; omega)], (codeOf_leaf hc hv ht hi).2⟩

end

/-! ### The walk over a path (R140) -/

theorem walkBit_eq (arena : Vector Node 511) (root : NodeIdx) (x : Walk) (b : Bool) :
    walkBit arena root x b =
      if (nodeAt arena ((nodeAt arena x.cur.toNat).child b).toNat).kind = .leaf then
        ⟨root, x.out ++ [(nodeAt arena ((nodeAt arena x.cur.toNat).child b).toNat).symbol]⟩
      else ⟨(nodeAt arena x.cur.toNat).child b, x.out⟩ := rfl

section
variable {s : State} (ht : TreeOk s) (hv : s.treeValid = true) (h2 : 2 ≤ s.nleaf.toNat)
include ht hv h2

/-- The walk over a node's path, begun at the root, ends at the node, or, at a leaf, emits its symbol and is back at the root. -/
theorem walkBits_codePath {i : ℕ} (hi : i < s.ncount.toNat) (out : List Byte) :
    walkBits s.node (rootIdx s.ncount) ⟨rootIdx s.ncount, out⟩ (codePath s.forest i) =
      if i < s.nleaf.toNat then ⟨rootIdx s.ncount, out ++ [(nodeAt s.node i).symbol]⟩ else ⟨BitVec.ofNat 9 i, out⟩ := by
  have hshape := ht.shape hv
  have hn := ht.ncount_eq hv
  have hlen := length_forest ht.1
  by_cases hroot : i + 1 < s.ncount.toNat
  · obtain ⟨p, b, hnp, hp, rfl⟩ := hshape.exists_child (hlen ▸ hroot)
    have hlt := hshape.child_lt hnp hp b
    have h511 := ht.1
    rw [hlen] at hp
    have hidx : (BitVec.ofNat 9 p).toNat = p := Nat.mod_eq_of_lt (by omega)
    rw [hshape.codePath_child hnp (hlen ▸ hp), walkBits_append, walkBits_codePath hp, if_neg (by omega)]
    simp only [walkBits, List.foldl_cons, List.foldl_nil, walkBit_eq, hidx, ← forestAt_forest s hp, ht.kind_eq hv hi]
    split
    · simp
    · simp
  · have hpath := codePath_root s.forest
    have hi' : i = s.ncount.toNat - 1 := by omega
    rw [hlen, ← hi'] at hpath
    rw [hpath, if_neg (by omega)]
    have hidx : rootIdx s.ncount = BitVec.ofNat 9 i := BitVec.eq_of_toNat_eq (by
      have := ht.1
      rw [ht.toNat_root, BitVec.toNat_ofNat, Nat.mod_eq_of_lt (by omega), hi'])
    rw [← hidx]; rfl
termination_by s.ncount.toNat - i

/-- Walking over the codes of any symbols, one after the other, emits the symbols and ends at the root (R105, R140). -/
theorem walkBits_codes (hc : CodesOk s) (hcv : s.codesValid = true) {xs : List Byte}
    (hxs : ∀ x ∈ xs, symGet s.codeValid x = true) (out : List Byte) :
    walkBits s.node (rootIdx s.ncount) ⟨rootIdx s.ncount, out⟩ (xs.flatMap s.codeOf) = ⟨rootIdx s.ncount, out ++ xs⟩ := by
  induction xs generalizing out with
  | nil => simp [walkBits]
  | cons x xs ih =>
    rw [List.forall_mem_cons] at hxs
    obtain ⟨i, hi, rfl, hcode⟩ := exists_leaf_of_code hc hcv ht hxs.1
    rw [List.flatMap_cons, walkBits_append, hcode,
      walkBits_codePath ht hv h2 (by have := ht.ncount_eq hv; omega), if_pos hi, ih hxs.2]
    simp

end

/-! ### The packed stream (R120, R125) -/

/-- The bits a packer has taken: those in the bytes emitted, then those still held (R59). -/
def Packer.stream (p : Packer) : List Bool := p.out.flatMap byteBits ++ lowBits p.acc p.cnt.toNat

/-- The new bit stands above those held. -/
theorem lowBits_pack {acc : BitVec 8} {n : ℕ} (hn : n < 8) (h : acc.toNat < 2 ^ n) (b : Bool) :
    lowBits (acc ||| ((BitVec.ofBool b).setWidth 8 <<< n)) (n + 1) = lowBits acc n ++ [b] := by
  have htop : acc[n] = false := by
    rw [← BitVec.getLsbD_eq_getElem, ← BitVec.testBit_toNat]; exact Nat.testBit_lt_two_pow h
  rw [lowBits_succ]
  congr 1
  · refine List.map_congr_left fun j hj => ?_
    rw [List.mem_range] at hj
    simp [hj]
  · simp [htop, hn]

theorem packBit_stream {p : Packer} (h : p.acc.toNat < 2 ^ p.cnt.toNat) (b : Bool) :
    (packBit p b).stream = p.stream ++ [b] := by
  have hpack := lowBits_pack p.cnt.isLt h b
  unfold packBit
  by_cases hc : p.cnt = 7#3
  · rw [hc] at hpack
    simp only [hc, if_true, Packer.stream, List.flatMap_append, List.append_assoc]
    simpa [byteBits, lowBits] using hpack
  · have hcnt : (p.cnt + 1#3).toNat = p.cnt.toNat + 1 := by
      have := p.cnt.isLt
      have : p.cnt.toNat ≠ 7 := fun h' => hc (BitVec.eq_of_toNat_eq h')
      rw [BitVec.toNat_add]; exact Nat.mod_eq_of_lt (by simp; omega)
    simp only [hc, if_false, Packer.stream, hcnt, hpack, List.append_assoc]

/-- Packing appends its bits to the stream (R120). -/
theorem packBits_stream {p : Packer} (h : p.acc.toNat < 2 ^ p.cnt.toNat) (bits : List Bool) :
    (packBits p bits).stream = p.stream ++ bits := by
  induction bits generalizing p with
  | nil => simp [packBits]
  | cons b bits ih =>
    have := ih (packBit_acc_lt h b)
    rw [packBit_stream h, List.append_assoc] at this
    exact this

end Sys2Proof.Machine
end

section
/-!
PROOFS. A command's encoding decodes to the command (spec/30_encoding.md R71 to R75), and one command of a host session
(spec/20_memory.md R64): written to CMD, run at once, its bytes drained.
-/

namespace Sys2Proof.Machine

/-! ### Decoding an encoding -/

/-- A word whose reserved bits are 0 is decoded by its row (R72, R75). -/
theorem decode_formC {op a ma : BitVec 8} {imm mi : BitVec 16} {r : Row} (hrow : rowOf op = some r)
    (hmask : r.mask = formC 0xFF#8 ma mi) (hvalue : r.value = formC op 0#8 0#16) (ha : a &&& ma = 0#8)
    (hi : imm &&& mi = 0#16) : decode (formC op a imm) = .ok (r.build (formC op a imm)) := by
  have hop := opField_formC op a imm
  rw [decode_of_row (r := r) (by rw [hop]; exact hrow), hmask, hvalue, if_pos]
  rw [masked_eq_iff hop, aField_formC, immField_formC]
  exact ⟨ha, hi⟩

theorem extractLsb'_append_low {m n : ℕ} (x : BitVec m) (y : BitVec n) : (x ++ y).extractLsb' 0 n = y := by
  refine BitVec.eq_of_getLsbD_eq fun j hj => ?_
  simp only [BitVec.getLsbD_extractLsb', BitVec.getLsbD_append, Nat.zero_add, hj, decide_true, Bool.true_and, if_true]

theorem extractLsb'_formC_imm {op a : BitVec 8} {imm : BitVec 16} {n : ℕ} (hn : n ≤ 16) :
    (formC op a imm).extractLsb' 0 n = imm.extractLsb' 0 n := by
  ext j hj
  simp [getLsbD_formC, show j < 16 by omega]

theorem selField_formC {op : BitVec 8} (sel : BitVec 2) (imm : BitVec 16) : selField (formC op (0#6 ++ sel) imm) = sel := by
  refine BitVec.eq_of_getLsbD_eq fun j hj => ?_
  simp only [selField, BitVec.getLsbD_extractLsb', getLsbD_formC, hj, show ¬ 16 + j < 16 by omega, show 16 + j < 24 by omega,
    Nat.add_sub_cancel_left, BitVec.getLsbD_append, decide_true, Bool.true_and, if_true, if_false]

/-- Decoding the encoding of a command gives the command, whatever its operands (R72, R73). -/
theorem decode_encode (i : Instr) : decode (encode i) = .ok i := by
  cases i with
  | nop | clear | build | qleaves | qroot | extract | flush | decreset =>
    exact (decode_formC (ma := 0xFF#8) (mi := 0xFFFF#16) rfl rfl rfl BitVec.zero_and BitVec.zero_and).trans rfl
  | setfreq sym | qlen sym | encode sym =>
    refine (decode_formC (ma := 0#8) (mi := 0xFFFF#16) rfl rfl rfl BitVec.and_zero rfl).trans ?_
    simp only [aField_formC]
  | qnode idx sel =>
    refine (decode_formC (ma := 0xFC#8) (mi := 0xFE00#16) rfl rfl rfl ?_ ?_).trans ?_
    · exact (and_high_eq_zero_iff _ 2).mpr (by rw [toNat_append_eq_add]; simp [sel.isLt])
    · exact (and_high_eq_zero_iff _ 9).mpr (by rw [toNat_append_eq_add]; simp [idx.isLt])
    · simp only [selField_formC, idxField, extractLsb'_formC_imm (show 9 ≤ 16 by decide), extractLsb'_append_low]
  | qbits sym k =>
    refine (decode_formC (ma := 0#8) (mi := 0xFFF8#16) rfl rfl rfl BitVec.and_zero ?_).trans ?_
    · exact (and_high_eq_zero_iff _ 3).mpr (by rw [toNat_append_eq_add]; simp [k.isLt])
    · simp only [aField_formC, kField, extractLsb'_formC_imm (show 3 ≤ 16 by decide), extractLsb'_append_low]
  | pack len bits =>
    refine (decode_formC (ma := 0#8) (mi := 0#16) rfl rfl rfl BitVec.and_zero BitVec.and_zero).trans ?_
    simp only [aField_formC, immField_formC]
  | decode nbits byte =>
    refine (decode_formC (ma := 0#8) (mi := 0xFF00#16) rfl rfl rfl BitVec.and_zero ?_).trans ?_
    · exact (and_high_eq_zero_iff _ 8).mpr (by rw [toNat_append_eq_add]; simp [byte.isLt])
    · simp only [aField_formC, byteField, extractLsb'_formC_imm (show 8 ≤ 16 by decide), extractLsb'_append_low]

/-! ### One command of a host session (R64) -/

theorem regWrite_cmd (s : State) (v : Word) : regWrite s 0x04 v = s.issue v := rfl

theorem drainTimes_eq (q : List Byte) (s : State) (out : List Byte) (h : s.outq = q) :
    drainTimes (q.length + 1) ⟨s, out⟩ = ⟨{ s with outq := [] }, out ++ q⟩ := by
  obtain ⟨hpops, hempty⟩ := outdataReadsAndPops
  induction q generalizing s out with
  | nil => simp [drainTimes, hempty s h, ← h]
  | cons b q ih =>
    obtain ⟨hvalid, hbyte, -, hnext⟩ := hpops s b q h
    rw [List.length_cons, drainTimes]
    simp only [hvalid, if_true, hbyte, hnext]
    rw [ih { s with outq := q } _ rfl, List.append_assoc]; rfl

/-- Draining moves the whole queue to the host (R29). -/
theorem drain_eq (x : Session) : drain x = ⟨{ x.core with outq := [] }, x.out ++ x.core.outq⟩ :=
  drainTimes_eq x.core.outq x.core x.out rfl

/-- The core is idle, without an error and with nothing to drain: as between two commands of a host session. -/
structure Ready (s : State) : Prop where
  idle : s.pending = none
  noError : s.errCode = .none
  drained : s.outq = []

/-- The checks look at nothing that the issue of a command writes (R46, R152). -/
theorem checksOf_issue {s : State} (h : s.pending = none) (v : Word) (i : Instr) : checksOf (s.issue v) i = checksOf s i := by
  rw [issue_of_idle h]; cases i <;> rfl

/-- The effect of a command just issued is its effect on the idle core (R37, R73). -/
theorem effectOf_issue {s : State} (h : s.pending = none) (i : Instr) :
    (effectOf (s.issue (encode i)) i).complete = (effectOf s i).complete := by
  rw [issue_of_idle h]
  cases i with
  | setfreq sym => simp only [effectOf, setfreqEffect, State.countOperand, State.command, h]; rfl
  | flush => simp only [effectOf, flushEffect]; split <;> rfl
  | _ => rfl

theorem exec_of_none {i : Instr} {s : State} (hc : firstError (checksOf s i) = none) :
    exec i s = .next (effectOf s i).complete :=
  (exec_eq_perform i s).trans (perform_of_none hc)

namespace Ready

variable {s : State} (h : Ready s) (i : Instr)
include h

/-- The core runs a command as soon as it is issued: nothing is held or locked out (R47, R48, R154). -/
theorem coreStep_issue (hc : firstError (checksOf s i) = none) :
    coreStep (s.issue (encode i)) = .next (effectOf s i).complete := by
  have hpending : (s.issue (encode i)).pending = some ⟨encode i, s.arg⟩ := by rw [issue_of_idle h.idle]
  have hheld : held (s.issue (encode i)) (encode i) = false := held_of_empty (by simp [h.drained]) _
  have hlock : lockedOut (s.issue (encode i)) (encode i) = false := by
    rw [issue_of_idle h.idle]; simp [lockedOut, h.noError]
  have hchecks : firstError (checksOf (s.issue (encode i)) i) = none :=
    (congrArg firstError (checksOf_issue h.idle _ i)).trans hc
  rw [coreStep_of_taken hpending hheld hlock, execute_of_ok (p := ⟨encode i, s.arg⟩) (decode_encode i), exec_of_none hchecks,
    effectOf_issue h.idle]

theorem drain_issue (out : List Byte) : drain ⟨s.issue (encode i), out⟩ = ⟨s.issue (encode i), out⟩ := by
  rw [drain_eq, issue_of_idle h.idle]
  simp [h.drained]

/-- A command without an error, in a host session (R64). -/
theorem hostCmd_eq (hc : firstError (checksOf s i) = none) (out : List Byte) :
    hostCmd i ⟨s, out⟩ = ⟨{ effectOf s i with pending := none, outq := [] }, out ++ (effectOf s i).outq⟩ := by
  have hmoves : coreMoves ⟨s.issue (encode i), out⟩ = ⟨(effectOf s i).complete, out⟩ := by
    simp only [coreMoves, h.coreStep_issue i hc]
  rw [hostCmd, regWrite_cmd, h.drain_issue, hmoves, drain_eq, State.complete_outq]
  rfl

end Ready

end Sys2Proof.Machine
end

section
/-!
PROOFS. What BUILD makes of a frequency table (spec/41_tree.md R93, R95): the leaves of the forest are the present symbols in ascending
order, each with its count.
-/

namespace Sys2Proof.Machine

theorem leavesOf_eq_map (present : Vector Bool 256) (freq : Vector (BitVec 32) 256) :
    leavesOf present freq = (symbols.filter (symGet present)).map fun sym => leafNode sym (symGet freq sym) := by
  rw [← List.filterMap_eq_map, List.filterMap_filter]
  exact List.filterMap_congr fun sym _ => by simp

theorem length_leavesOf (present : Vector Bool 256) (freq : Vector (BitVec 32) 256) :
    (leavesOf present freq).length = (symbols.filter (symGet present)).length := by
  rw [leavesOf_eq_map, List.length_map]

/-- The merges leave the nodes before them alone but for `consumed` (R94). -/
theorem Growing.forestAt_mergeTimes {f : List Node} {n k : ℕ} (hg : Growing f n) (hn : n ≤ 256)
    (hk : f.length + k ≤ 2 * n - 1) {i : ℕ} (hi : i < f.length) :
    ∃ b, forestAt (mergeTimes k f) i = { forestAt f i with consumed := b } := by
  induction k generalizing f with
  | zero => exact ⟨_, rfl⟩
  | succ k ih =>
    have htwo : 2 ≤ (unconsumed f).card := by have := hg.card; omega
    obtain ⟨b, hb⟩ := forestAt_merge htwo hi
    obtain ⟨b', hb'⟩ := ih (hg.growing_merge hn htwo) (by rw [length_merge]; omega) (by rw [length_merge]; omega)
    exact ⟨b', by rw [mergeTimes, hb', hb]⟩

/-- The first nodes of BUILD's forest are its leaves. -/
theorem forestAt_forestOf (present : Vector Bool 256) (freq : Vector (BitVec 32) 256) {i : ℕ}
    (hi : i < (leavesOf present freq).length) :
    ∃ b, forestAt (forestOf present freq) i = { forestAt (leavesOf present freq) i with consumed := b } :=
  (growing_leavesOf present freq).forestAt_mergeTimes (length_leavesOf_le present freq) (by omega) hi

/-- The leaves of BUILD's forest, read off in index order (R93, R95). -/
theorem map_leaves_forestOf (present : Vector Bool 256) (freq : Vector (BitVec 32) 256) :
    (List.range (leavesOf present freq).length).map (fun i => ((forestAt (forestOf present freq) i).kind,
        (forestAt (forestOf present freq) i).symbol, (forestAt (forestOf present freq) i).weight)) =
      (symbols.filter (symGet present)).map fun sym => (NodeKind.leaf, sym, (symGet freq sym).setWidth 40) := by
  refine List.ext_getElem (by simp [length_leavesOf]) fun i hi hi' => ?_
  have hi : i < (leavesOf present freq).length := by simpa using hi
  obtain ⟨b, hb⟩ := forestAt_forestOf present freq hi
  simp only [List.getElem_map, List.getElem_range, hb, forestAt_eq_getElem hi]
  simp only [leavesOf_eq_map, List.getElem_map, leafNode]

theorem forest_buildEffect (s : State) : (buildEffect s).forest = forestOf s.present s.freq :=
  forest_arenaOf _ _ (by
    have := length_forestOf s.present s.freq; have := length_leavesOf_le s.present s.freq; omega)

theorem toNat_nleaf_buildEffect (s : State) : (buildEffect s).nleaf.toNat = (symbols.filter (symGet s.present)).length := by
  have := length_leavesOf_le s.present s.freq
  rw [← length_leavesOf s.present s.freq]
  exact Nat.mod_eq_of_lt (by omega)

end Sys2Proof.Machine
end

section
/-!
PROOFS. The header entries of an input (spec/20_memory.md R60, R63) and the part that the host's two sessions share: CLEAR, the frequency
table and BUILD, from reset (R64, R65).
-/

namespace Sys2Proof.Machine

/-! ### The symbols of an input (R63) -/

/-- The byte values that occur in an input, ascending. -/
def alphabet (input : List Byte) : List Byte := symbols.filter fun b => decide (b ∈ input)

/-- The header entries of an input (R60, R64). -/
def entriesOf (input : List Byte) : List (Byte × BitVec 32) :=
  (alphabet input).map fun b => (b, BitVec.ofNat 32 (input.count b))

theorem mem_alphabet {input : List Byte} {b : Byte} : b ∈ alphabet input ↔ b ∈ input := by
  simp [alphabet, mem_symbols]

theorem countedSymbols_eq (input : List Byte) :
    countedSymbols input = (alphabet input).map fun b => (b, input.count b) := by
  rw [alphabet, ← List.filterMap_eq_map, List.filterMap_filter, countedSymbols]
  refine List.filterMap_congr fun b _ => ?_
  by_cases hb : b ∈ input
  · simp [hb, List.count_eq_zero]
  · simp [hb, List.count_eq_zero]

theorem entriesOf_eq (input : List Byte) :
    (countedSymbols input).map (fun e => (e.1, BitVec.ofNat 32 e.2)) = entriesOf input := by
  rw [countedSymbols_eq, List.map_map]; rfl

@[simp] theorem length_entriesOf (input : List Byte) : (entriesOf input).length = (alphabet input).length := by
  simp [entriesOf]

theorem ascending_entriesOf (input : List Byte) : ascending (entriesOf input) = true := by
  rw [ascending_iff, entriesOf, List.map_map, List.pairwise_map]
  exact symbols_pairwise.filter _

theorem nodup_alphabet (input : List Byte) : (alphabet input).Nodup :=
  (symbols_pairwise.filter _).imp fun h he => h.ne (congrArg BitVec.toNat he)

theorem length_alphabet_le (input : List Byte) : (alphabet input).length ≤ 256 :=
  (List.length_filter_le ..).trans (by simp [symbols])

/-- A sum over an input, symbol by symbol. -/
theorem sum_map_alphabet (input : List Byte) (g : Byte → ℕ) :
    ((alphabet input).map fun b => input.count b * g b).sum = (input.map g).sum := by
  have hset : (alphabet input).toFinset = input.toFinset := by ext b; simp [mem_alphabet]
  rw [← List.sum_toFinset _ (nodup_alphabet input), hset, Finset.sum_list_map_count input]
  simp only [smul_eq_mul]

/-! ### The frequency table and BUILD (R64, R65) -/

/-- The core of a session from reset while the frequency table is being entered. -/
def tableState (arg : Word) (present : Vector Bool 256) (freq : Vector (BitVec 32) 256) : State :=
  { State.reset with arg := arg, present := present, freq := freq }

/-- The frequency table of a list of entries. -/
def presentOf (entries : List (Byte × BitVec 32)) (t : Vector Bool 256) : Vector Bool 256 :=
  entries.foldl (fun t e => symSet t e.1 true) t

/-- The counts of a list of entries. -/
def freqOf (entries : List (Byte × BitVec 32)) (t : Vector (BitVec 32) 256) : Vector (BitVec 32) 256 :=
  entries.foldl (fun t e => symSet t e.1 e.2) t

theorem ready_tableState (arg : Word) (present : Vector Bool 256) (freq : Vector (BitVec 32) 256) :
    Ready (tableState arg present freq) := ⟨rfl, rfl, rfl⟩

theorem hostSetFreq_tableState (arg : Word) (present : Vector Bool 256) (freq : Vector (BitVec 32) 256)
    (e : Byte × BitVec 32) (out : List Byte) :
    hostSetFreq ⟨tableState arg present freq, out⟩ e =
      ⟨tableState e.2 (symSet present e.1 true) (symSet freq e.1 e.2), out⟩ := by
  refine ((ready_tableState e.2 present freq).hostCmd_eq (.setfreq e.1) rfl out).trans ?_
  exact congrArg (Session.mk _) (List.append_nil out)

theorem foldl_hostSetFreq (entries : List (Byte × BitVec 32)) (arg : Word) (present : Vector Bool 256)
    (freq : Vector (BitVec 32) 256) (out : List Byte) :
    ∃ arg', entries.foldl hostSetFreq ⟨tableState arg present freq, out⟩ =
      ⟨tableState arg' (presentOf entries present) (freqOf entries freq), out⟩ := by
  induction entries generalizing arg present freq with
  | nil => exact ⟨arg, rfl⟩
  | cons e entries ih =>
    rw [List.foldl_cons, hostSetFreq_tableState]
    exact ih ..

/-- The state BUILD leaves in a session from reset. -/
def builtState (arg : Word) (entries : List (Byte × BitVec 32)) : State :=
  buildEffect (tableState arg (presentOf entries (Vector.replicate 256 false)) (freqOf entries (Vector.replicate 256 0#32)))

theorem ready_builtState (arg : Word) (entries : List (Byte × BitVec 32)) : Ready (builtState arg entries) := ⟨rfl, rfl, rfl⟩

/-- CLEAR, the table and BUILD, from reset (R64, R65). -/
theorem hostBuild_reset (entries : List (Byte × BitVec 32)) :
    ∃ arg, hostBuild State.reset entries = ⟨builtState arg entries, []⟩ := by
  have hclear : hostCmd .clear ⟨State.reset, []⟩ = ⟨tableState 0#32 (Vector.replicate 256 false) (Vector.replicate 256 0#32), []⟩ :=
    (Ready.mk (s := State.reset) rfl rfl rfl).hostCmd_eq .clear rfl []
  obtain ⟨arg, hfold⟩ := foldl_hostSetFreq entries 0#32 (Vector.replicate 256 false) (Vector.replicate 256 0#32) []
  refine ⟨arg, ?_⟩
  rw [hostBuild, hclear, hfold]
  exact (ready_tableState ..).hostCmd_eq .build rfl []

end Sys2Proof.Machine
end

section
/-!
PROOFS. The tree and the code table of an input (spec/20_memory.md R63, R64, spec/42_codes.md R106): the leaves are its symbols with
their counts, each symbol has a code, and LASTBITS is the length of all its codes modulo 8.
-/

namespace Sys2Proof.Machine

/-! ### The table of an input -/

theorem symGet_presentOf (input l : List Byte) (t : Vector Bool 256) (b : Byte) :
    symGet (presentOf (l.map fun b => (b, BitVec.ofNat 32 (input.count b))) t) b = (decide (b ∈ l) || symGet t b) := by
  induction l generalizing t with
  | nil => simp [presentOf]
  | cons a l ih =>
    refine (ih (symSet t a true)).trans ?_
    by_cases hab : b = a
    · simp [symGet_symSet, hab]
    · simp [symGet_symSet, hab, Ne.symm hab]

theorem symGet_freqOf (input l : List Byte) (t : Vector (BitVec 32) 256) (b : Byte) :
    symGet (freqOf (l.map fun b => (b, BitVec.ofNat 32 (input.count b))) t) b =
      if b ∈ l then BitVec.ofNat 32 (input.count b) else symGet t b := by
  induction l generalizing t with
  | nil => simp [freqOf]
  | cons a l ih =>
    refine (ih (symSet t a (BitVec.ofNat 32 (input.count a)))).trans ?_
    by_cases hab : b = a
    · simp [symGet_symSet, hab]
    · simp [symGet_symSet, hab, Ne.symm hab]

section
variable (arg : Word) (input : List Byte)

/-- The symbols present after the table is entered are those of the input. -/
theorem filter_present_builtState :
    symbols.filter (symGet (builtState arg (entriesOf input)).present) = alphabet input := by
  refine List.filter_congr fun b _ => ?_
  change symGet (presentOf (entriesOf input) _) b = _
  rw [entriesOf, symGet_presentOf, symGet_replicate, Bool.or_false]
  simp only [mem_alphabet]

theorem nleaf_builtState : (builtState arg (entriesOf input)).nleaf.toNat = (alphabet input).length := by
  rw [← filter_present_builtState arg]
  exact toNat_nleaf_buildEffect _

/-- The leaves of an input's forest: its symbols and their counts, in ascending order (R93). -/
theorem map_leaves_builtState (h : ∀ b, input.count b < 2 ^ 32) :
    (List.range (alphabet input).length).map (fun i =>
        ((forestAt (builtState arg (entriesOf input)).forest i).symbol,
          (forestAt (builtState arg (entriesOf input)).forest i).weight.toNat)) =
      (alphabet input).map fun b => (b, input.count b) := by
  have hleaves := congrArg (List.map fun x => (x.2.1, x.2.2.toNat))
    (map_leaves_forestOf (builtState arg (entriesOf input)).present (builtState arg (entriesOf input)).freq)
  rw [List.map_map, List.map_map, length_leavesOf, filter_present_builtState] at hleaves
  have hforest : (builtState arg (entriesOf input)).forest =
      forestOf (builtState arg (entriesOf input)).present (builtState arg (entriesOf input)).freq := forest_buildEffect _
  rw [hforest]
  refine hleaves.trans (List.map_congr_left fun b hb => ?_)
  have hfreq : symGet (builtState arg (entriesOf input)).freq b = BitVec.ofNat 32 (input.count b) :=
    (symGet_freqOf input (alphabet input) _ b).trans (if_pos hb)
  have := h b
  simp only [Function.comp, hfreq, BitVec.toNat_setWidth, BitVec.toNat_ofNat]
  rw [Nat.mod_eq_of_lt (a := input.count b) (by omega), Nat.mod_eq_of_lt (by omega)]

end

/-! ### EXTRACT (R106) -/

/-- The state EXTRACT leaves in an encoding session from reset. -/
def codedState (arg : Word) (input : List Byte) : State := extractEffect (builtState arg (entriesOf input))

section
variable (arg : Word) {input : List Byte} (hne : input ≠ [])

theorem ready_codedState : Ready (codedState arg input) := ⟨rfl, rfl, rfl⟩

theorem treeOk_codedState : TreeOk (codedState arg input) :=
  treeOk_effectOf (treeOk_buildEffect _) .extract

theorem nleaf_codedState : (codedState arg input).nleaf.toNat = (alphabet input).length := nleaf_builtState arg input

include hne

theorem alphabet_length_pos : 0 < (alphabet input).length := by
  obtain ⟨b, hb⟩ := List.exists_mem_of_ne_nil input hne
  exact List.length_pos_of_mem (mem_alphabet.mpr hb)

theorem ncount_builtState_ne : (builtState arg (entriesOf input)).ncount ≠ 0#10 := by
  intro h
  have hn := (treeOk_codedState arg (input := input)).ncount_eq rfl
  have hpos := alphabet_length_pos hne
  have hzero : (codedState arg input).ncount.toNat = 0 := congrArg BitVec.toNat h
  rw [nleaf_codedState] at hn
  omega

theorem extractChecks_builtState : firstError (extractChecks (builtState arg (entriesOf input))) = none := by
  rw [firstError_eq_none]
  simp only [extractChecks, List.forall_mem_cons, Bool.not_eq_false', beq_eq_false_iff_ne]
  exact ⟨rfl, ncount_builtState_ne arg hne, by simp⟩

theorem codesOk_codedState : CodesOk (codedState arg input) := codesOk_extractEffect (extractChecks_builtState arg hne)

theorem hostCmd_extract_built :
    hostCmd .extract ⟨builtState arg (entriesOf input), []⟩ = ⟨codedState arg input, []⟩ :=
  (ready_builtState arg (entriesOf input)).hostCmd_eq .extract (extractChecks_builtState arg hne) []

/-- Every symbol of the input has a code. -/
theorem codeValid_codedState (h : ∀ b, input.count b < 2 ^ 32) {b : Byte} (hb : b ∈ input) :
    symGet (codedState arg input).codeValid b = true := by
  have hmem : (b, input.count b) ∈ (alphabet input).map fun b => (b, input.count b) :=
    List.mem_map.mpr ⟨b, mem_alphabet.mpr hb, rfl⟩
  rw [← map_leaves_builtState arg input h] at hmem
  obtain ⟨i, hi, hleaf⟩ := List.mem_map.mp hmem
  have hi : i < (codedState arg input).nleaf.toNat := by rw [nleaf_codedState]; exact List.mem_range.mp hi
  have hsym : (forestAt (codedState arg input).forest i).symbol = b := congrArg Prod.fst hleaf
  rw [← hsym]
  exact (codeOf_leaf (codesOk_codedState arg hne) rfl (treeOk_codedState arg) hi).1

/-- LASTBITS is the length of the whole payload in bits, modulo 8 (R106). -/
theorem lastBits_codedState (h : ∀ b, input.count b < 2 ^ 32) :
    (codedState arg input).lastBits.toNat = (input.flatMap (codedState arg input).codeOf).length % 8 := by
  obtain ⟨-, hcodes⟩ := codesOk_codedState arg hne
  obtain ⟨-, -, -, hlast⟩ := hcodes rfl
  have hterms := congrArg (List.map fun x => x.2 * (symGet (codedState arg input).codeLen x.1).toNat)
    (map_leaves_builtState arg input h)
  rw [List.map_map, List.map_map] at hterms
  rw [hlast, List.length_flatMap, totalBits, nleaf_codedState]
  refine congrArg (· % 8) ((congrArg List.sum hterms).trans ?_)
  refine (sum_map_alphabet input fun b => (symGet (codedState arg input).codeLen b).toNat).trans ?_
  simp only [State.codeOf, length_lowBits]

end

end Sys2Proof.Machine
end

section
/-!
PROOFS. The sessions of the round trip (spec/20_memory.md R64, R65, R67, R68, R144): what the encoding session emits, what the decoding
session makes of it, and that this is the input.
-/

namespace Sys2Proof.Machine

/-! ### The encoding session (R64) -/

/-- A session whose packer is `p`, the bytes `p` has emitted read by the host. -/
def packedSession (s : State) (p : Packer) : Session := ⟨{ s with pkAcc := p.acc, pkCnt := p.cnt }, p.out⟩

/-- The bytes of a packer once FLUSH has emitted the partial one (R123). -/
def Packer.flushed (p : Packer) : List Byte := p.out ++ if 0 < p.cnt.toNat then [p.acc] else []

theorem packBit_after (acc : BitVec 8) (cnt : BitVec 3) (out rest : List Byte) (b : Bool) :
    packBit ⟨acc, cnt, out ++ rest⟩ b =
      ⟨(packBit ⟨acc, cnt, rest⟩ b).acc, (packBit ⟨acc, cnt, rest⟩ b).cnt, out ++ (packBit ⟨acc, cnt, rest⟩ b).out⟩ := by
  unfold packBit
  by_cases hc : cnt = 7#3 <;> simp [hc]

/-- What was emitted before a packing stays in front of what it emits. -/
theorem packBits_after (acc : BitVec 8) (cnt : BitVec 3) (out rest : List Byte) (bits : List Bool) :
    packBits ⟨acc, cnt, out ++ rest⟩ bits =
      ⟨(packBits ⟨acc, cnt, rest⟩ bits).acc, (packBits ⟨acc, cnt, rest⟩ bits).cnt,
        out ++ (packBits ⟨acc, cnt, rest⟩ bits).out⟩ := by
  induction bits generalizing acc cnt rest with
  | nil => rfl
  | cons b bits ih =>
    change packBits (packBit ⟨acc, cnt, out ++ rest⟩ b) bits = _
    rw [packBit_after, ih]; rfl

section
variable {s : State} (h : Ready s)
include h

theorem ready_packed (p : Packer) : Ready { s with pkAcc := p.acc, pkCnt := p.cnt } := ⟨h.idle, h.noError, h.drained⟩

theorem hostCmd_encode_packed (hv : s.codesValid = true) {b : Byte} (hb : symGet s.codeValid b = true) (p : Packer) :
    hostCmd (.encode b) (packedSession s p) = packedSession s (packBits p (s.codeOf b)) := by
  have hchecks : firstError (checksOf { s with pkAcc := p.acc, pkCnt := p.cnt } (.encode b)) = none := by
    simp [checksOf, encodeChecks, firstError, hv, hb]
  have hout := packBits_after p.acc p.cnt p.out [] (s.codeOf b)
  rw [List.append_nil] at hout
  rw [hout]
  refine ((ready_packed h p).hostCmd_eq (.encode b) hchecks p.out).trans ?_
  simp [packedSession, effectOf, encodeEffect, State.pack, State.setPacker, State.emits, State.packer, State.codeOf, h.idle,
    h.drained]

theorem foldl_encode_packed (hv : s.codesValid = true) {input : List Byte}
    (hinput : ∀ b ∈ input, symGet s.codeValid b = true) (p : Packer) :
    input.foldl (fun x b => hostCmd (.encode b) x) (packedSession s p) = packedSession s (packBits p (input.flatMap s.codeOf)) := by
  induction input generalizing p with
  | nil => rfl
  | cons b input ih =>
    rw [List.forall_mem_cons] at hinput
    rw [List.foldl_cons, hostCmd_encode_packed h hv hinput.1, ih hinput.2, List.flatMap_cons, packBits_append]

theorem hostCmd_flush_packed (p : Packer) :
    ∃ t, hostCmd .flush (packedSession s p) = ⟨t, p.flushed⟩ ∧ t.errCode = .none := by
  refine ⟨_, ((ready_packed h p).hostCmd_eq .flush rfl p.out).trans (congrArg (Session.mk _) ?_), ?_⟩
  · simp only [effectOf, flushEffect, Packer.flushed]
    split <;> simp [h.drained]
  · rw [effectOf, flushEffect_frame]; exact h.noError

theorem hostStatus_nleaf (out : List Byte) : (hostStatus ⟨s, out⟩).extractLsb' 8 9 = s.nleaf := by
  obtain ⟨-, hidle, -⟩ := statusShowsItsFields
  obtain ⟨-, -, -, -, -, hnleaf, -⟩ := hidle s h.idle
  exact hnleaf

theorem hostStatus_lastBits (out : List Byte) : (hostStatus ⟨s, out⟩).extractLsb' 4 3 = s.lastBits := by
  obtain ⟨-, hidle, -⟩ := statusShowsItsFields
  obtain ⟨-, -, -, hlast, -⟩ := hidle s h.idle
  exact hlast

end

/-- The packer once it has taken the codes of an input's bytes (R64). -/
def payloadPacker (arg : Word) (input : List Byte) : Packer :=
  packBits ⟨0#8, 0#3, []⟩ (input.flatMap (codedState arg input).codeOf)

/-- The last-byte bit count of an input's container (R60). -/
def lastByteBits (arg : Word) (input : List Byte) : Byte := (codedState arg input).lastBits.setWidth 8

/-- The header of an input's container after its first byte. -/
def headerRest (arg : Word) (input : List Byte) : List Byte :=
  entryBytes (entriesOf input) ++ if 1 < (alphabet input).length then [lastByteBits arg input] else []

theorem counts_fit {input : List Byte} (h : ∀ b, input.count b < 2 ^ 32) :
    (countedSymbols input).any (fun e => decide (0xFFFFFFFF < e.2)) = false := by
  rw [countedSymbols_eq, List.any_eq_false]
  intro e he
  obtain ⟨b, -, rfl⟩ := List.mem_map.mp he
  have := h b
  simp only [decide_eq_true_eq]; omega

section
variable {arg : Word} {input : List Byte} (hbuild : hostBuild State.reset (entriesOf input) = ⟨builtState arg (entriesOf input), []⟩)
  (h : ∀ b, input.count b < 2 ^ 32)
include hbuild h

theorem hostEncode_of_empty (hinput : input = []) :
    hostEncode State.reset input = some ⟨[], 0, builtState arg (entriesOf input)⟩ := by
  have hn : ((hostStatus ⟨builtState arg (entriesOf input), []⟩).extractLsb' 8 9).toNat = 0 := by
    rw [hostStatus_nleaf (ready_builtState arg _), nleaf_builtState, hinput]; rfl
  simp only [hostEncode, counts_fit h, Bool.false_eq_true, if_false, entriesOf_eq, hbuild, hn, if_true]

/-- The encoding of an input with a byte (R64). -/
theorem hostEncode_eq (hne : input ≠ []) :
    ∃ core, hostEncode State.reset input = some
        ⟨BitVec.ofNat 8 ((alphabet input).length - 1) :: (headerRest arg input ++ (payloadPacker arg input).flushed),
          1 + (headerRest arg input).length, core⟩ ∧
      core.errCode = .none := by
  have hready := ready_codedState arg (input := input)
  have hn : ((hostStatus ⟨builtState arg (entriesOf input), []⟩).extractLsb' 8 9).toNat = (alphabet input).length := by
    rw [hostStatus_nleaf (ready_builtState arg _), nleaf_builtState]
  have hpos := alphabet_length_pos hne
  have hfold := foldl_encode_packed hready rfl (fun b hb => codeValid_codedState arg hne h hb) ⟨0#8, 0#3, []⟩
  obtain ⟨core, hflush, herr⟩ := hostCmd_flush_packed hready (payloadPacker arg input)
  refine ⟨core, ?_, herr⟩
  have hsession : hostCmd .flush (input.foldl (fun x b => hostCmd (.encode b) x) ⟨codedState arg input, []⟩) =
      ⟨core, (payloadPacker arg input).flushed⟩ := (congrArg (hostCmd .flush) hfold).trans hflush
  simp only [hostEncode, counts_fit h, Bool.false_eq_true, if_false, entriesOf_eq, hbuild, hn, if_neg hpos.ne',
    hostCmd_extract_built arg hne, hostStatus_lastBits hready, hsession]
  simp only [headerRest, entryBytes, lastByteBits, List.cons_append, List.nil_append, List.append_assoc, List.length_cons,
    Nat.add_comm 1]

end

/-! ### The decoding session (R65) -/

/-- A session whose cursor and output are those of the walk `x`. -/
def walkedSession (s : State) (x : Walk) : Session := ⟨{ s with decCur := x.cur }, x.out⟩

theorem walkBit_after (arena : Vector Node 511) (root cur : NodeIdx) (out rest : List Byte) (b : Bool) :
    walkBit arena root ⟨cur, out ++ rest⟩ b =
      ⟨(walkBit arena root ⟨cur, rest⟩ b).cur, out ++ (walkBit arena root ⟨cur, rest⟩ b).out⟩ := by
  simp only [walkBit_eq]; split <;> simp

/-- What was emitted before a walk stays in front of what it emits. -/
theorem walkBits_after (arena : Vector Node 511) (root cur : NodeIdx) (out rest : List Byte) (bits : List Bool) :
    walkBits arena root ⟨cur, out ++ rest⟩ bits =
      ⟨(walkBits arena root ⟨cur, rest⟩ bits).cur, out ++ (walkBits arena root ⟨cur, rest⟩ bits).out⟩ := by
  induction bits generalizing cur rest with
  | nil => rfl
  | cons b bits ih =>
    change walkBits arena root (walkBit arena root ⟨cur, out ++ rest⟩ b) bits = _
    rw [walkBit_after, ih]; rfl

/-- How many bits of the last payload byte are walked (R65). -/
def lastWalked (k : Byte) : BitVec 8 := if k = 0#8 then 8#8 else k

/-- The bits the payload's DECODE commands walk (R65). -/
def payloadBits (k : Byte) : List Byte → List Bool
  | [] => []
  | [b] => lowBits b (lastWalked k).toNat
  | b :: c :: rest => byteBits b ++ payloadBits k (c :: rest)

theorem payloadBits_concat (k : Byte) (bytes : List Byte) (b : Byte) :
    payloadBits k (bytes ++ [b]) = bytes.flatMap byteBits ++ lowBits b (lastWalked k).toNat := by
  induction bytes with
  | nil => rfl
  | cons a bytes ih =>
    rw [List.flatMap_cons, List.append_assoc, ← ih]
    cases bytes <;> rfl

theorem payloadBits_zero (bytes : List Byte) : payloadBits 0#8 bytes = bytes.flatMap byteBits := by
  cases bytes using List.reverseRecOn with
  | nil => rfl
  | append_singleton bytes b => rw [payloadBits_concat, List.flatMap_append]; simp [lastWalked, byteBits]

/-- The payload's DECODE commands walk exactly the bits packed, whatever the padding (R65, R125). -/
theorem payloadBits_flushed {p : Packer} {k : Byte} (hk : k.toNat = p.cnt.toNat) : payloadBits k p.flushed = p.stream := by
  unfold Packer.flushed Packer.stream
  split
  next hpos =>
    have hk0 : k ≠ 0#8 := fun h => by simp [h] at hk; omega
    rw [payloadBits_concat, lastWalked, if_neg hk0, hk]
  next hzero =>
    have hcnt : p.cnt.toNat = 0 := by omega
    have hk0 : k = 0#8 := BitVec.eq_of_toNat_eq (hk.trans hcnt)
    rw [hk0, List.append_nil, payloadBits_zero, hcnt]; simp [lowBits]

section
variable {s : State} (h : Ready s) (hv : s.treeValid = true) (hncount : s.ncount ≠ 0#10) (hnleaf : s.nleaf ≠ 1#9)
include h hv hncount hnleaf

theorem hostCmd_decode_walked {nbits : BitVec 8} (hpos : 1 ≤ nbits.toNat) (hle : nbits.toNat ≤ 8) (byte : Byte) (x : Walk) :
    hostCmd (.decode nbits byte) (walkedSession s x) =
      walkedSession s (walkBits s.node (rootIdx s.ncount) x (lowBits byte nbits.toNat)) := by
  have hready : Ready { s with decCur := x.cur } := ⟨h.idle, h.noError, h.drained⟩
  have hbits : nbitsBad nbits = false := by
    simp only [nbitsBad, Bool.or_eq_false_iff, decide_eq_false_iff_not]; omega
  have hchecks : firstError (checksOf { s with decCur := x.cur } (.decode nbits byte)) = none := by
    simp [checksOf, decodeChecks, firstError, hbits, hv, hncount, hnleaf]
  have hout := walkBits_after s.node (rootIdx s.ncount) x.cur x.out [] (lowBits byte nbits.toNat)
  rw [List.append_nil] at hout
  rw [hout]
  refine (hready.hostCmd_eq (.decode nbits byte) hchecks x.out).trans ?_
  simp [walkedSession, effectOf, decodeEffect, State.walk, State.setWalk, State.emits, h.idle, h.drained]

/-- The payload's DECODE commands are one walk over the payload's bits (R65, R141). -/
theorem decodePayload_walked {k : Byte} (hk : k.toNat ≤ 7) (payload : List Byte) (x : Walk) :
    decodePayload k payload (walkedSession s x) =
      walkedSession s (walkBits s.node (rootIdx s.ncount) x (payloadBits k payload)) := by
  induction payload generalizing x with
  | nil => rfl
  | cons b payload ih =>
    cases payload with
    | nil =>
      have hlast : 1 ≤ (lastWalked k).toNat ∧ (lastWalked k).toNat ≤ 8 := by
        unfold lastWalked
        split
        next => decide
        next hk0 => exact ⟨Nat.one_le_iff_ne_zero.mpr fun h => hk0 (BitVec.eq_of_toNat_eq h), by omega⟩
      exact hostCmd_decode_walked h hv hncount hnleaf hlast.1 hlast.2 b x
    | cons c rest =>
      rw [decodePayload, hostCmd_decode_walked h hv hncount hnleaf (by decide) (by decide), ih, payloadBits, walkBits_append]
      rfl

end

/-! ### The round trip (R144) -/

section
variable {arg : Word} {input : List Byte} (hne : input ≠ []) (h : ∀ b, input.count b < 2 ^ 32)
include hne h

theorem toNat_lastByteBits : (lastByteBits arg input).toNat = (payloadPacker arg input).cnt.toNat := by
  have hcount := packBits_count ⟨0#8, 0#3, []⟩ (input.flatMap (codedState arg input).codeOf)
  have hlast := lastBits_codedState arg hne h
  have := (codedState arg input).lastBits.isLt
  have hlt := (payloadPacker arg input).cnt.isLt
  simp only [payloadPacker, List.length_nil, BitVec.toNat_ofNat] at hcount hlt ⊢
  rw [lastByteBits, BitVec.toNat_setWidth, Nat.mod_eq_of_lt (by omega)]
  omega

/-- The payload of an input, walked in the tree it was encoded with, gives the input (R144). -/
theorem decodePayload_payloadPacker (htwo : 2 ≤ (alphabet input).length) :
    ∃ core, decodePayload (lastByteBits arg input) (payloadPacker arg input).flushed ⟨builtState arg (entriesOf input), []⟩ =
      ⟨core, input⟩ ∧ core.errCode = .none := by
  have hk := toNat_lastByteBits (arg := arg) hne h
  have hcnt := (payloadPacker arg input).cnt.isLt
  have hstream : (payloadPacker arg input).stream = input.flatMap (codedState arg input).codeOf :=
    packBits_stream (p := ⟨0#8, 0#3, []⟩) (by decide) _
  have hnleaf : (builtState arg (entriesOf input)).nleaf ≠ 1#9 := fun hone => by
    have := nleaf_builtState arg input
    rw [hone] at this
    have : 1 = (alphabet input).length := this
    omega
  have hwalk := walkBits_codes (treeOk_codedState arg (input := input)) rfl (by rw [nleaf_codedState]; exact htwo)
    (codesOk_codedState arg hne) rfl (fun b hb => codeValid_codedState arg hne h hb) []
  have hdecode := decodePayload_walked (ready_builtState arg (entriesOf input)) rfl (ncount_builtState_ne arg hne) hnleaf
    (show (lastByteBits arg input).toNat ≤ 7 by omega) (payloadPacker arg input).flushed
    ⟨rootIdx (builtState arg (entriesOf input)).ncount, []⟩
  rw [payloadBits_flushed hk, hstream] at hdecode
  exact ⟨_, hdecode.trans (congrArg (walkedSession _) hwalk), rfl⟩

/-- The container of an input of two symbols or more decodes to the input. -/
theorem hostDecode_of_two (hbuild : hostBuild State.reset (entriesOf input) = ⟨builtState arg (entriesOf input), []⟩)
    (htwo : 2 ≤ (alphabet input).length) :
    ∃ core, hostDecode State.reset
        (BitVec.ofNat 8 ((alphabet input).length - 1) :: (headerRest arg input ++ (payloadPacker arg input).flushed)) =
      .ok ⟨input, 1 + (headerRest arg input).length, core⟩ ∧ core.errCode = .none := by
  have hm : (BitVec.ofNat 8 ((alphabet input).length - 1)).toNat = (alphabet input).length - 1 := by
    have := length_alphabet_le input
    exact Nat.mod_eq_of_lt (by omega)
  have hk := toNat_lastByteBits (arg := arg) hne h
  have hcnt := (payloadPacker arg input).cnt.isLt
  have hgood : ¬ (7 < (lastByteBits arg input).toNat ∨
      ((payloadPacker arg input).flushed = [] ∧ lastByteBits arg input ≠ 0#8)) := by
    rintro (h7 | ⟨hnil, hk0⟩)
    · omega
    · have : (lastByteBits arg input).toNat ≠ 0 := fun h0 => hk0 (BitVec.eq_of_toNat_eq h0)
      rw [Packer.flushed, if_pos (by omega)] at hnil
      simp at hnil
  obtain ⟨core, hpayload, herr⟩ := decodePayload_payloadPacker (arg := arg) hne h htwo
  refine ⟨core, ?_, herr⟩
  have hdecode := hostDecode_of_payload (core := State.reset) (m := BitVec.ofNat 8 ((alphabet input).length - 1))
    (entries := entriesOf input) (by rw [length_entriesOf, hm]; omega) (ascending_entriesOf input) (by omega)
    (lastByteBits arg input) (payloadPacker arg input).flushed
  rw [if_neg hgood, hbuild, hpayload] at hdecode
  simp only [headerRest, if_pos (show 1 < (alphabet input).length by omega), List.append_assoc, List.singleton_append,
    List.length_append, length_entryBytes, length_entriesOf, List.length_singleton] at hdecode ⊢
  rw [hdecode]
  congr 2; omega

end

/-! ### Inputs of one symbol (R63, R68) -/

theorem eq_replicate_of_alphabet {input : List Byte} {sym : Byte} (h : alphabet input = [sym]) :
    input = List.replicate (input.count sym) sym := by
  have hall : ∀ b ∈ input, b = sym := fun b hb => by
    have := mem_alphabet.mpr hb
    rw [h] at this
    exact List.mem_singleton.mp this
  have hrep := List.eq_replicate_of_mem hall
  have hcount : input.count sym = input.length := List.count_eq_length.mpr fun b hb => (hall b hb).symm
  rw [hcount]; exact hrep

theorem alphabet_replicate {k : ℕ} (hk : 1 ≤ k) (sym : Byte) : alphabet (List.replicate k sym) = [sym] := by
  refine List.perm_singleton.mp ((List.perm_ext_iff_of_nodup (nodup_alphabet _) (List.nodup_singleton sym)).mpr fun b => ?_)
  rw [mem_alphabet, List.mem_replicate, List.mem_singleton]
  exact and_iff_right (by omega)

section
variable {arg : Word} {input : List Byte} {sym : Byte} (hone : alphabet input = [sym])
include hone

theorem entriesOf_of_one : entriesOf input = [(sym, BitVec.ofNat 32 (input.count sym))] := by
  rw [entriesOf, hone]; rfl

theorem headerRest_of_one : headerRest arg input = entryBytes [(sym, BitVec.ofNat 32 (input.count sym))] := by
  rw [headerRest, entriesOf_of_one hone, hone]
  exact List.append_nil _

/-- The only symbol of an input has a code of no bits, so there is no payload (R68, R107). -/
theorem flushed_payload_of_one (h : ∀ b, input.count b < 2 ^ 32) : (payloadPacker arg input).flushed = [] := by
  have hsym : sym ∈ alphabet input := hone ▸ List.mem_singleton_self sym
  have hne : input ≠ [] := List.ne_nil_of_mem (mem_alphabet.mp hsym)
  have ht := treeOk_codedState arg (input := input)
  have hnil : input.flatMap (codedState arg input).codeOf = [] := by
    rw [List.flatMap_eq_nil_iff]
    intro b hb
    obtain ⟨i, -, -, hcode⟩ := exists_leaf_of_code (codesOk_codedState arg hne) rfl ht (codeValid_codedState arg hne h hb)
    have hlen := (ht.shape rfl).length_codePath_le i
    rw [nleaf_codedState, hone] at hlen
    rw [hcode]
    exact List.length_eq_zero_iff.mp (by simpa using hlen)
  rw [payloadPacker, hnil]; rfl

theorem hostDecode_of_one_symbol (h : ∀ b, input.count b < 2 ^ 32) (core : State) (rest : List Byte) :
    hostDecode core (0x00#8 :: (headerRest arg input ++ rest)) = .ok
      ⟨(hostBuild core (entriesOf input)).out ++ input, 6, (hostBuild core (entriesOf input)).core⟩ := by
  have hcount : (BitVec.ofNat 32 (input.count sym)).toNat = input.count sym := Nat.mod_eq_of_lt (h sym)
  have hdecode := hostDecode_of_one (core := core) (m := 0x00#8) (entries := entriesOf input)
    (by rw [entriesOf_of_one hone]; rfl) (entriesOf_of_one hone) rest
  rw [hcount, ← eq_replicate_of_alphabet hone] at hdecode
  rw [headerRest_of_one hone, ← entriesOf_of_one hone]
  exact hdecode

end

/-- Settles O60: both sessions build one tree. With one symbol the header says it all; with more, the payload is the stream of the
codes, and walking a code emits its symbol. -/
theorem hostDecodeOfHostEncodeIsTheInput : Obligations.HostDecodeOfHostEncodeIsTheInput := by
  intro input h
  obtain ⟨arg, hbuild⟩ := hostBuild_reset (entriesOf input)
  by_cases hne : input = []
  · subst hne
    exact ⟨_, _, hostEncode_of_empty hbuild h rfl, rfl, rfl, rfl, rfl, rfl⟩
  obtain ⟨core, hencode, herr⟩ := hostEncode_eq hbuild h hne
  have hpos := alphabet_length_pos hne
  by_cases htwo : 2 ≤ (alphabet input).length
  · obtain ⟨core', hdecode, herr'⟩ := hostDecode_of_two hne h hbuild htwo
    exact ⟨_, _, hencode, hdecode, rfl, rfl, herr, herr'⟩
  · obtain ⟨sym, hone⟩ := List.length_eq_one_iff.mp (show (alphabet input).length = 1 by omega)
    have hdecode := hostDecode_of_one_symbol (arg := arg) hone h State.reset (payloadPacker arg input).flushed
    rw [hbuild] at hdecode
    rw [hone] at hencode
    refine ⟨_, _, hencode, hdecode, rfl, ?_, herr, rfl⟩
    rw [headerRest_of_one hone, length_entryBytes]; rfl

/-- Settles O58: no symbol, one symbol, and the one-entry container from every core state. -/
theorem smallContainers : Obligations.SmallContainers := by
  refine ⟨?_, ⟨_, rfl, rfl, rfl⟩, fun sym k hk hlt => ?_, fun core sym count rest => ?_⟩
  · obtain ⟨arg, hbuild⟩ := hostBuild_reset (entriesOf [])
    exact ⟨_, hostEncode_of_empty hbuild (by simp) rfl, rfl, rfl⟩
  · have h : ∀ b, (List.replicate k sym).count b < 2 ^ 32 := fun b =>
      List.count_le_length.trans_lt (by rw [List.length_replicate]; exact hlt)
    have hone := alphabet_replicate hk sym
    have hne : List.replicate k sym ≠ [] := by simp; omega
    obtain ⟨arg, hbuild⟩ := hostBuild_reset (entriesOf (List.replicate k sym))
    obtain ⟨core, hencode, herr⟩ := hostEncode_eq hbuild h hne
    have hdecode := hostDecode_of_one_symbol (arg := arg) hone h State.reset []
    rw [hone, flushed_payload_of_one hone h, headerRest_of_one hone, List.count_replicate_self] at hencode
    rw [hbuild, headerRest_of_one hone, List.count_replicate_self] at hdecode
    exact ⟨⟨_, hencode, rfl, rfl, herr⟩, _, hdecode, rfl, rfl⟩
  · exact hostDecode_of_one (m := 0x00#8) (entries := [(sym, count)]) rfl rfl rest

end Sys2Proof.Machine
end

section
/-!
PROOFS. Decoding and encoding over every word (spec/30_encoding.md R71 to R76): a word decodes exactly when it matches a row of the
opcode table, no word matches two, and the words that match none are illegal.
-/

namespace Sys2Proof.Machine

/-! ### The rows of the table (R72, R74) -/

/-- Every row fixes the whole of OP, and its value has nothing but OP (R72). -/
theorem row_fields : ∀ r ∈ opcodeTable, opField r.mask = 0xFF#8 ∧ aField r.value = 0#8 ∧ immField r.value = 0#16 := by
  decide

/-- No two rows share an OP value (R74). -/
theorem opcodeTable_pairwise : opcodeTable.Pairwise fun r r' => opField r.value ≠ opField r'.value := by decide

/-- The assigned OP values (R74). -/
theorem opcodeTable_opValues : opcodeTable.map (fun r => (opField r.value).toNat) =
    [0x00, 0x01, 0x02, 0x10, 0x11, 0x12, 0x13, 0x20, 0x21, 0x22, 0x30, 0x31, 0x32, 0x40, 0x41] := rfl

theorem rowOf_of_mem {r : Row} (hr : r ∈ opcodeTable) : rowOf (opField r.value) = some r := by
  simp only [opcodeTable, List.mem_cons, List.not_mem_nil, or_false] at hr
  obtain rfl | rfl | rfl | rfl | rfl | rfl | rfl | rfl | rfl | rfl | rfl | rfl | rfl | rfl | rfl := hr <;> rfl

/-- A word matches a row exactly when it has the row's OP and the row's reserved bits are 0 (R75). -/
theorem matches_iff {r : Row} (hr : r ∈ opcodeTable) (w : Word) :
    w &&& r.mask = r.value ↔
      opField w = opField r.value ∧ aField w &&& aField r.mask = 0#8 ∧ immField w &&& immField r.mask = 0#16 := by
  obtain ⟨hmask, ha, hi⟩ := row_fields r hr
  have hop : opField w &&& 0xFF#8 = opField w := BitVec.and_allOnes
  conv_lhs => rw [← formC_fields w, ← formC_fields r.mask, ← formC_fields r.value, formC_and, hmask, hop, ha, hi, formC_inj]

/-- A word decodes to a command exactly when it matches a row that builds the command (R75). -/
theorem decode_eq_ok_iff {w : Word} {i : Instr} :
    decode w = .ok i ↔ ∃ r ∈ opcodeTable, w &&& r.mask = r.value ∧ r.build w = i := by
  constructor
  · intro h
    cases hrow : rowOf (opField w) with
    | none => simp [decode, hrow] at h
    | some r =>
      rw [decode_of_row hrow] at h
      split_ifs at h with hmatch
      exact ⟨r, (mem_of_rowOf hrow).1, hmatch, by simpa using h⟩
  · rintro ⟨r, hr, hmatch, rfl⟩
    have hop := ((matches_iff hr w).mp hmatch).1
    rw [decode_of_row (hop ▸ rowOf_of_mem hr), if_pos hmatch]

/-- An OP value that no row has is unassigned (R74, R76). -/
theorem decode_of_unassigned {w : Word} (h : ∀ r ∈ opcodeTable, opField r.value ≠ opField w) :
    decode w = .error .unassignedOp := by
  have hrow : rowOf (opField w) = none := List.find?_eq_none.mpr fun r hr => by simpa using h r hr
  simp only [decode, hrow]

/-- The rows a word matches all have its OP, so there is at most one (R75). -/
theorem length_matches_le (w : Word) : (opcodeTable.filter fun r => w &&& r.mask == r.value).length ≤ 1 := by
  have hop : ∀ r ∈ opcodeTable.filter fun r => w &&& r.mask == r.value, opField r.value = opField w := by
    intro r hr
    obtain ⟨hmem, hmatch⟩ := List.mem_filter.mp hr
    exact ((matches_iff hmem w).mp (by simpa using hmatch)).1.symm
  have hpair := opcodeTable_pairwise.filter fun r => w &&& r.mask == r.value
  match hrows : opcodeTable.filter fun r => w &&& r.mask == r.value with
  | [] | [_] => simp [hrows]
  | r :: r' :: _ =>
    rw [hrows] at hop hpair
    exact absurd ((hop r (by simp)).trans (hop r' (by simp)).symm) (List.rel_of_pairwise_cons hpair (by simp))

/-! ### Encoding what was decoded (R72, R73) -/

/-- Where the bits at `k` and above are 0, zeros above the low `k` bits give the field back. -/
theorem zero_append_low {m k : ℕ} {x : BitVec (m + k)} (h : x &&& (BitVec.allOnes (m + k) <<< k) = 0#(m + k)) :
    0#m ++ x.extractLsb' 0 k = x := by
  refine BitVec.eq_of_toNat_eq ?_
  rw [toNat_append_eq_add]
  simpa using Nat.mod_eq_of_lt ((and_high_eq_zero_iff x k).mp h)

/-- `sel` is the low end of A (R73). -/
theorem selField_eq_aField_low (w : Word) : selField w = (aField w).extractLsb' 0 2 := by
  refine BitVec.eq_of_getLsbD_eq fun j hj => ?_
  simp [selField, aField, show j < 8 by omega]

/-- A field that starts at bit 0 and ends inside IMM lies in IMM (R71, R73). -/
theorem extractLsb'_immField (w : Word) {n : ℕ} (hn : n ≤ 16) : w.extractLsb' 0 n = (immField w).extractLsb' 0 n := by
  conv_lhs => rw [← formC_fields w]
  exact extractLsb'_formC_imm hn

/-- A field under a full mask is 0. -/
theorem zero_of_fixed {n : ℕ} {x : BitVec n} (h : x &&& BitVec.allOnes n = 0#n) : 0#n = x := h.symm.trans BitVec.and_allOnes

theorem formC_eq_of_fields {w : Word} {op a : BitVec 8} {imm : BitVec 16} (hop : opField w = op) (ha : a = aField w)
    (hi : imm = immField w) : formC op a imm = w := by
  rw [← hop, ha, hi, formC_fields]

/-- Encoding the command a word decodes to gives the word: its operand fields are read from it, its reserved bits are 0 (R72, R75). -/
theorem encode_of_decode {w : Word} {i : Instr} (h : decode w = .ok i) : encode i = w := by
  obtain ⟨r, hr, hmatch, hbuild⟩ := decode_eq_ok_iff.mp h
  obtain ⟨hop, ha, hi⟩ := (matches_iff hr w).mp hmatch
  have hopcode := opField_of_decode h
  have hrow : rowOf (Laws.OpField.opcode i) = some r := by rw [← hopcode, hop, rowOf_of_mem hr]
  cases i with
  | nop | clear | build | qleaves | qroot | extract | flush | decreset =>
    cases hrow
    exact formC_eq_of_fields hopcode (zero_of_fixed ha) (zero_of_fixed hi)
  | setfreq | qlen | encode =>
    cases hrow; cases hbuild
    exact formC_eq_of_fields hopcode rfl (zero_of_fixed hi)
  | qnode =>
    cases hrow; cases hbuild
    refine formC_eq_of_fields hopcode ?_ ?_
    · rw [selField_eq_aField_low, zero_append_low (m := 6) ha]
    · rw [idxField, extractLsb'_immField w (by decide), zero_append_low (m := 7) hi]
  | qbits =>
    cases hrow; cases hbuild
    refine formC_eq_of_fields hopcode rfl ?_
    rw [kField, extractLsb'_immField w (by decide), zero_append_low (m := 13) hi]
  | pack =>
    cases hrow; cases hbuild
    exact formC_eq_of_fields hopcode rfl rfl
  | decode =>
    cases hrow; cases hbuild
    refine formC_eq_of_fields hopcode rfl ?_
    rw [byteField, extractLsb'_immField w (by decide), zero_append_low (m := 8) hi]

/-! ### The statements -/

/-- Settles O1: the encoding is decoded by the command's row, and the row reads each operand back from its own field. -/
theorem decodeOfEncodeIsTheCommand : Obligations.DecodeOfEncodeIsTheCommand := decode_encode

/-- Settles O2: the row's operand fields are the word's, and every other bit is fixed by the row's mask. -/
theorem encodeOfDecodeIsTheWord : Obligations.EncodeOfDecodeIsTheWord := fun _ _ => encode_of_decode

/-- Settles O3: a word that decodes matches the row it is decoded by and no other; one that is rejected matches no row. -/
theorem everyWordSpellsOneRowOrIsRejected : Obligations.EveryWordSpellsOneRowOrIsRejected := by
  intro w
  cases hd : decode w with
  | ok i =>
    obtain ⟨r, hr, hmatch, -⟩ := decode_eq_ok_iff.mp hd
    have hpos : 0 < (opcodeTable.filter fun r => w &&& r.mask == r.value).length :=
      List.length_pos_of_mem (List.mem_filter.mpr ⟨hr, by simpa using hmatch⟩)
    exact .inl ⟨⟨i, rfl⟩, Nat.le_antisymm (length_matches_le w) hpos⟩
  | error e =>
    refine .inr ⟨⟨e, rfl⟩, List.filter_eq_nil_iff.mpr fun r hr hmatch => ?_⟩
    have hok := decode_eq_ok_iff.mpr ⟨r, hr, by simpa using hmatch, rfl⟩
    cases hd.symm.trans hok

/-- An illegal word that the core takes, no error being recorded, is recorded and has no other effect (R75, R76, R153). -/
theorem step_of_illegal {s : State} {rest : List Event} {p : Pending} {e : DecodeError} (hm : CoreMoves s rest)
    (hp : s.pending = some p) (hd : decode p.word = .error e) (hh : held s p.word = false) (he : s.errCode = .none) :
    step s = .next { s with errCode := .illegalCmd, errWord := p.word, pending := none, sched := rest } := by
  have hl : lockedOut (s.setSched rest) p.word = false := by simp [lockedOut, he]
  rw [step_of_coreMoves hm, coreStep_of_taken (s := s.setSched rest) hp hh hl, execute_of_error hd,
    raise_of_none (s := s.setSched rest) he]
  rfl

/-- Settles O5: no row has an OP of the listed ranges, and a word with a row's OP is rejected by that row. -/
theorem illegalWordsRaiseIllegalCmd : Obligations.IllegalWordsRaiseIllegalCmd := by
  refine ⟨fun w hw => decode_of_unassigned fun r hr heq => ?_, fun r hr w hop hmatch => ?_,
    fun _ _ _ _ => step_of_illegal, decode_encode .nop, ?_⟩
  · have hmem := List.mem_map_of_mem (f := fun r : Row => (opField r.value).toNat) hr
    rw [opcodeTable_opValues, heq] at hmem
    simp only [List.mem_cons, List.not_mem_nil, or_false] at hmem
    omega
  · rw [decode_of_row (hop ▸ rowOf_of_mem hr), if_neg hmatch]
  · decide

/-- Settles O4: each word is the encoding of its command. -/
theorem wordsOfTheSpecDecode : Obligations.WordsOfTheSpecDecode :=
  ⟨decode_encode .nop, decode_encode .clear, decode_encode (.setfreq 0xFF#8), decode_encode .build,
    decode_encode (.qnode 0x105#9 2#2), decode_encode .extract, decode_encode (.qbits 0x61#8 7#3),
    decode_encode (.encode 0x63#8), decode_encode (.pack 12#8 0xABC#16), decode_encode .flush,
    decode_encode (.decode 8#8 0xE8#8), decode_encode .decreset⟩

end Sys2Proof.Machine
end

section
/-!
PROOFS. The commands NOP, CLEAR and SETFREQ (spec/40_control.md R85 to R89): the words that spell them, and what the core's step
makes of them in the lockout and out of it.
-/

namespace Sys2Proof.Machine

/-! ### The words of a row (R72, R75) -/

/-- A row that fixes every bit has one word. -/
theorem decode_of_fixed {w : Word} {r : Row} (h : rowOf (opField w) = some r) (hm : r.mask = BitVec.allOnes 32) :
    decode w = if w = r.value then .ok (r.build w) else .error .reservedBit := by
  rw [decode_of_row h, hm, BitVec.and_allOnes]

/-- A row whose only operand is A takes the words with IMM 0. -/
theorem decode_of_aOperand {w : Word} {r : Row} (h : rowOf (opField w) = some r) (hm : r.mask = 0xFF00FFFF#32) :
    decode w = if immField w = 0#16 then .ok (r.build w) else .error .reservedBit := by
  obtain ⟨hr, hop⟩ := mem_of_rowOf h
  have ha : aField w &&& aField 0xFF00FFFF#32 = 0#8 := BitVec.and_zero
  have himm : immField w &&& immField 0xFF00FFFF#32 = immField w := BitVec.and_allOnes
  have hmatch : w &&& r.mask = r.value ↔ immField w = 0#16 := by
    rw [matches_iff hr, hm, himm]
    exact ⟨fun ⟨_, _, hi⟩ => hi, fun hi => ⟨hop.symm, ha, hi⟩⟩
  rw [decode_of_row h]
  simp only [hmatch]

/-! ### The step that takes a word (R47, R48, R154) -/

theorem held_of_not_emitting {s : State} {w : Word} (h : isEmitting w = false) : held s w = false := by
  rw [held, h, Bool.false_and]

theorem held_of_clearOp {s : State} {w : Word} (h : opField w = 0x01#8) : held s w = false :=
  held_of_not_emitting (by rw [isEmitting, h]; rfl)

theorem lockedOut_of_clearOp {s : State} {w : Word} (h : opField w = 0x01#8) : lockedOut s w = false := by
  simp [lockedOut, h]

section
variable {s : State} {rest : List Event} {p : Pending} (hm : CoreMoves s rest) (hp : s.pending = some p)
  (hh : held s p.word = false)
include hm hp hh

/-- A word locked out is discarded. -/
theorem step_of_lockedOut (hl : lockedOut s p.word = true) : step s = .next (s.setSched rest).complete := by
  rw [step_of_coreMoves hm, coreStep_of_lockedOut (s := s.setSched rest) hp hh hl]

/-- A word that is neither held nor locked out runs the command it spells. -/
theorem step_of_taken {i : Instr} (hl : lockedOut s p.word = false) (hd : decode p.word = .ok i) :
    step s = exec i (s.setSched rest) := by
  rw [step_of_coreMoves hm, coreStep_of_taken (s := s.setSched rest) hp hh hl, execute_of_ok hd]

end

/-! ### The statements -/

/-- NOP completes and does nothing else (R85). -/
theorem exec_nop (s : State) : exec .nop s = .next s.complete := exec_of_none rfl

/-- Settles O24: discarded or executed, the pending word is gone and nothing else has changed. -/
theorem nopDoesNothing : Obligations.NopDoesNothing := by
  refine ⟨fun w h => decode_of_fixed (by rw [h]; rfl) rfl, exec_nop, fun s rest a hm hp => ?_, fun s p hp he => ?_⟩
  · have hh : held s 0x00000000#32 = false := held_of_not_emitting rfl
    cases hl : lockedOut s 0x00000000#32 with
    | true => exact step_of_lockedOut hm hp hh hl
    | false => exact (step_of_taken hm hp hh hl (decode_encode .nop)).trans (exec_nop _)
  · rw [regWrite_cmd, issue_of_busy hp, raise_of_none he]

/-- Settles O25: the hold and the lockout never stop the OP of CLEAR, and the effect clears each of the elements listed. -/
theorem clearGivesTheClearedState : Obligations.ClearGivesTheClearedState := by
  refine ⟨fun w => decode_clear, fun s => ?_, fun s rest a hm hp => ?_, fun s rest p hm hp hop hw he => ?_⟩
  · refine ⟨(clearEffect s).complete, exec_of_none rfl, ?_, ?_, ?_, rfl⟩ <;> simp [clearEffect]
  · have hop : opField 0x01000000#32 = 0x01#8 := rfl
    exact step_of_taken hm hp (held_of_clearOp hop) (lockedOut_of_clearOp hop) (decode_encode .clear)
  · obtain ⟨-, -, hreserved⟩ := lockoutDiscardsAllButClear s rest p hm hp he (held_of_clearOp hop)
    exact hreserved hop hw

/-- Settles O26: one entry of the table is written, with the latched operand, and the tree and the codes are discarded. -/
theorem setfreqEntersTheCount : Obligations.SetfreqEntersTheCount := by
  refine ⟨fun w h => decode_of_aOperand (by rw [h]; rfl) rfl, fun s p sym hp => ?_⟩
  have hcount : s.countOperand (.setfreq sym) = p.arg := by rw [State.countOperand, command_of_pending hp]
  refine ⟨(setfreqEffect sym s).complete, exec_of_none rfl, ?_, ?_, fun b hb => ?_, ?_, ?_, rfl⟩
  · simp [setfreqEffect, symGet_symSet]
  · simp [setfreqEffect, symGet_symSet, hcount]
  · simp [setfreqEffect, symGet_symSet, hb.symm]
  · simp [setfreqEffect]
  · simp [setfreqEffect]

end Sys2Proof.Machine
end

section
/-!
PROOFS. The node comparator and the scan (spec/41_tree.md R90 to R92): the lexicographic order of the keys is strict and total, and the
scan finds the one least node of a forest.
-/

namespace Sys2Proof.Machine

/-! ### The lexicographic order (R6) -/

theorem lexLt_irrefl : ∀ a : List ℕ, lexLt a a = false
  | [] => rfl
  | x :: xs => by simp [lexLt, lexLt_irrefl xs]

theorem lexLt_cons {x y : ℕ} {xs ys : List ℕ} :
    lexLt (x :: xs) (y :: ys) = true ↔ x < y ∨ (x = y ∧ lexLt xs ys = true) := by
  simp [lexLt]

theorem lexLt_trans : ∀ {a b c : List ℕ}, lexLt a b = true → lexLt b c = true → lexLt a c = true
  | x :: xs, y :: ys, z :: zs, hab, hbc => by
    rw [lexLt_cons] at hab hbc ⊢
    obtain hxy | ⟨rfl, hxs⟩ := hab <;> obtain hyz | ⟨rfl, hys⟩ := hbc
    · exact .inl (hxy.trans hyz)
    · exact .inl hxy
    · exact .inl hyz
    · exact .inr ⟨rfl, lexLt_trans hxs hys⟩

/-- Of two different tuples of one length exactly one is less. -/
theorem lexLt_eq_not : ∀ {a b : List ℕ}, a.length = b.length → a ≠ b → lexLt a b = !lexLt b a
  | [], [], _, hne => absurd rfl hne
  | x :: xs, y :: ys, hlen, hne => by
    obtain hxy | rfl | hxy := Nat.lt_trichotomy x y
    · simp [lexLt, hxy, hxy.ne', hxy.not_gt]
    · have htail : lexLt xs ys = !lexLt ys xs :=
        lexLt_eq_not (Nat.succ.inj hlen) fun h => hne (by rw [h])
      simp [lexLt, htail]
    · simp [lexLt, hxy, hxy.ne', hxy.not_gt]

/-! ### The comparator (R91) -/

theorem nodeLess_trans {a b c : ℕ × Node} (hab : nodeLess a b = true) (hbc : nodeLess b c = true) : nodeLess a c = true :=
  lexLt_trans hab hbc

/-- The index, last in the key, tells any two entries apart. -/
theorem nodeLess_eq_not {a b : ℕ × Node} (h : a.1 ≠ b.1) : nodeLess a b = !nodeLess b a :=
  lexLt_eq_not rfl fun hkey => h (by simp only [nodeKey, List.cons.injEq] at hkey; tauto)

/-- Entries that agree on `consumed` compare by (weight, symkey, index). -/
theorem nodeLess_iff {a b : ℕ × Node} (h : a.2.consumed = b.2.consumed) : nodeLess a b = true ↔
    a.2.weight.toNat < b.2.weight.toNat ∨ (a.2.weight.toNat = b.2.weight.toNat ∧
      ((symkey a.2).toNat < (symkey b.2).toNat ∨ ((symkey a.2).toNat = (symkey b.2).toNat ∧ a.1 < b.1))) := by
  simp [nodeLess, nodeKey, lexLt, h]

theorem symkey_of_leaf {n : Node} (h : n.kind = .leaf) : symkey n = n.symbol := by simp only [symkey, h]

theorem symkey_of_internal {n : Node} (h : n.kind = .internal) : symkey n = 0#8 := by simp only [symkey, h]

/-- Settles O27: the order of the keys, and its first component that differs in each clause. -/
theorem comparatorIsAStrictTotalOrder : Obligations.ComparatorIsAStrictTotalOrder := by
  refine ⟨fun a => lexLt_irrefl _, fun a b c => nodeLess_trans, fun a b => nodeLess_eq_not, fun a b => nodeLess_of_consumed,
    fun a b hc hw => ?_, fun a b hc hw ha hb hsym => ?_, fun a b hc hw ha hb hsym => ?_, fun a b hc hw hsym hidx => ?_⟩ <;>
    rw [nodeLess_iff hc]
  · exact .inl hw
  · rw [symkey_of_internal ha, symkey_of_leaf hb]
    exact .inr ⟨congrArg _ hw, .inl (Nat.pos_of_ne_zero fun h => hsym (BitVec.eq_of_toNat_eq h))⟩
  · rw [symkey_of_leaf ha, symkey_of_leaf hb]
    exact .inr ⟨congrArg _ hw, .inl hsym⟩
  · exact .inr ⟨congrArg _ hw, .inr ⟨congrArg _ hsym, hidx⟩⟩

/-! ### The least node (R92) -/

/-- The scan from index `i` on keeps the least: if the best so far, `j`, is less than every other node below `i`, what it gives is less
than every other node. -/
theorem scanLeast_least {f : List Node} : ∀ {l : List Node} {i j : ℕ}, f.drop i = l → j < i →
    (∀ k < i, k ≠ j → nodeLess (j, forestAt f j) (k, forestAt f k) = true) →
    ∀ k < f.length, k ≠ scanLeast l i (j, forestAt f j) →
      nodeLess (scanLeast l i (j, forestAt f j), forestAt f (scanLeast l i (j, forestAt f j))) (k, forestAt f k) = true
  | [], i, j, hl, _, hbest => fun k hk hkj => hbest k (hk.trans_le (List.drop_eq_nil_iff.mp hl)) hkj
  | n :: l, i, j, hl, hji, hbest => by
    have hi : i < f.length := by
      by_contra hi; rw [List.drop_eq_nil_of_le (by omega)] at hl; cases hl
    obtain ⟨hn, hl'⟩ : forestAt f i = n ∧ f.drop (i + 1) = l := by
      rw [List.drop_eq_getElem_cons hi] at hl
      rw [forestAt_eq_getElem hi]; exact List.cons.inj hl
    rw [scanLeast, ← hn]
    split
    next hless =>
      refine scanLeast_least hl' (Nat.lt_succ_self i) fun k hk hki => ?_
      by_cases hkj : k = j
      · rw [hkj]; exact hless
      · exact nodeLess_trans hless (hbest k (by omega) hkj)
    next hless =>
      refine scanLeast_least hl' (by omega) fun k hk hkj => ?_
      obtain hki | rfl := Nat.lt_succ_iff_lt_or_eq.mp hk
      · exact hbest k hki hkj
      · rw [nodeLess_eq_not hji.ne, Bool.eq_false_iff.mpr hless]; rfl

theorem argminUnconsumed_lt {f : List Node} (hf : f ≠ []) : argminUnconsumed f < f.length := by
  cases f with
  | nil => exact absurd rfl hf
  | cons n rest => exact (scanLeast_spec (f := n :: rest) (l := rest) (i := 1) (j := 0) rfl (by simp)).1

theorem nodeLess_argminUnconsumed {f : List Node} {k : ℕ} (hk : k < f.length) (hne : k ≠ argminUnconsumed f) :
    nodeLess (argminUnconsumed f, forestAt f (argminUnconsumed f)) (k, forestAt f k) = true := by
  cases f with
  | nil => exact absurd hk (Nat.not_lt_zero k)
  | cons n rest =>
    exact scanLeast_least (f := n :: rest) (l := rest) (i := 1) (j := 0) rfl Nat.one_pos (fun k hk hk0 => by omega) k hk hne

/-- Settles O28: the scan keeps the least node it has met, and a least node is unconsumed where any is. -/
theorem scanFindsTheLeastNode : Obligations.ScanFindsTheLeastNode := by
  refine fun f hf => ⟨argminUnconsumed_lt hf, fun j hj hne => nodeLess_argminUnconsumed hj hne, ?_⟩
  rintro ⟨j, hj, hc⟩
  exact (mem_unconsumed.mp (argminUnconsumed_mem ⟨j, mem_unconsumed.mpr ⟨hj, hc⟩⟩)).2

end Sys2Proof.Machine
end

section
/-!
PROOFS. The nodes BUILD joins (spec/41_tree.md R92, R94, R96 (6)): each internal node of the finished forest is the one that a merge of
the two least nodes then unjoined has made, so the internal weights do not decrease.
-/

namespace Sys2Proof.Machine

/-! ### The order in which unconsumed nodes are joined -/

/-- The key of node `k` without `consumed`: what the comparator compares unconsumed nodes by (R90). -/
def mergeKey (f : List Node) (k : ℕ) : List ℕ := [(forestAt f k).weight.toNat, (symkey (forestAt f k)).toNat, k]

theorem mergeKey_lt_iff {f : List Node} {a b : ℕ} (h : (forestAt f a).consumed = (forestAt f b).consumed) :
    lexLt (mergeKey f a) (mergeKey f b) = true ↔ nodeLess (a, forestAt f a) (b, forestAt f b) = true := by
  rw [nodeLess_iff h]; simp [mergeKey, lexLt]

theorem weight_le_of_mergeKey_lt {f : List Node} {a b : ℕ} (h : lexLt (mergeKey f a) (mergeKey f b) = true) :
    (forestAt f a).weight.toNat ≤ (forestAt f b).weight.toNat := by
  obtain h | ⟨h, -⟩ := lexLt_cons.mp h
  · exact h.le
  · exact h.le

theorem mergeKey_of_forestAt {f g : List Node} {k : ℕ} {b : Bool} (h : forestAt f k = { forestAt g k with consumed := b }) :
    mergeKey f k = mergeKey g k := by
  rw [mergeKey, h]; rfl

/-- The node the scan finds comes before every other unconsumed one (R92). -/
theorem mergeKey_argminUnconsumed_lt {f : List Node} {k : ℕ} (hk : k ∈ unconsumed f) (hne : k ≠ argminUnconsumed f) :
    lexLt (mergeKey f (argminUnconsumed f)) (mergeKey f k) = true := by
  obtain ⟨hlt, hc⟩ := mem_unconsumed.mp hk
  obtain ⟨-, hmin⟩ := mem_unconsumed.mp (argminUnconsumed_mem ⟨k, hk⟩)
  exact (mergeKey_lt_iff (hmin.trans hc.symm)).mpr (nodeLess_argminUnconsumed hlt hne)

/-- The second node a merge joins comes before every unconsumed one but the first (R94). -/
theorem mergeKey_secondLightest_lt {f : List Node} (hf : 2 ≤ (unconsumed f).card) {k : ℕ} (hk : k ∈ unconsumed f)
    (hone : k ≠ lightest f) (htwo : k ≠ secondLightest f) :
    lexLt (mergeKey f (secondLightest f)) (mergeKey f k) = true := by
  have hkey : ∀ c, c ≠ lightest f → mergeKey (consume f (lightest f)) c = mergeKey f c := fun c hc => by
    rw [mergeKey, forestAt_consume (lightest_lt hf), if_neg hc, mergeKey]
  have hmem : k ∈ unconsumed (consume f (lightest f)) := by
    rw [unconsumed_consume (lightest_lt hf)]; exact Finset.mem_erase.mpr ⟨hone, hk⟩
  rw [← hkey k hone, ← hkey _ (secondLightest_ne hf)]
  exact mergeKey_argminUnconsumed_lt hmem htwo

/-! ### The merge that made a node -/

/-- Each node the merges append is made by the merge of a growing forest, and stays as it was but for `consumed`, as do the nodes
below it (R94). -/
theorem Growing.exists_merge {f : List Node} {n k : ℕ} (hg : Growing f n) (hn : n ≤ 256) (hk : f.length + k ≤ 2 * n - 1) {i : ℕ}
    (hi : f.length ≤ i) (hik : i < f.length + k) :
    ∃ g, Growing g n ∧ g.length = i ∧ 2 ≤ (unconsumed g).card ∧
      ∀ j ≤ i, ∃ b, forestAt (mergeTimes k f) j = { forestAt (merge g) j with consumed := b } := by
  induction k generalizing f with
  | zero => omega
  | succ k ih =>
    have htwo : 2 ≤ (unconsumed f).card := by have := hg.card; omega
    have hg' := hg.growing_merge hn htwo
    have hk' : (merge f).length + k ≤ 2 * n - 1 := by rw [length_merge]; omega
    obtain rfl | hlt := hi.eq_or_lt
    · exact ⟨f, hg, rfl, htwo, fun j hj => hg'.forestAt_mergeTimes hn hk' (by rw [length_merge]; omega)⟩
    · exact ih hg' hk' (by rw [length_merge]; omega) (by rw [length_merge]; omega)

/-- Node `i` joins the two least nodes that had no parent when it was made, the lesser on the left. -/
def JoinsTwoLeast (f : List Node) (i : ℕ) : Prop :=
  lexLt (mergeKey f (forestAt f i).left.toNat) (mergeKey f (forestAt f i).right.toNat) = true ∧
    ∀ k, k < i → k ≠ (forestAt f i).left.toNat → k ≠ (forestAt f i).right.toNat → (∀ p, p ≤ i → ¬ ParentOf f p k) →
      lexLt (mergeKey f (forestAt f i).right.toNat) (mergeKey f k) = true

/-- A node that the merge of `g` has made, in a later forest `f`. -/
theorem Growing.joinsTwoLeast {f g : List Node} {n : ℕ} (hg : Growing g n) (hn : n ≤ 256) (htwo : 2 ≤ (unconsumed g).card)
    (hlen : g.length < f.length)
    (hsame : ∀ j ≤ g.length, ∃ b, forestAt f j = { forestAt (merge g) j with consumed := b }) : JoinsTwoLeast f g.length := by
  have hold : ∀ {k}, k < g.length → ∃ b, forestAt f k = { forestAt g k with consumed := b } := fun {k} hk => by
    obtain ⟨b, hb⟩ := hsame k hk.le
    obtain ⟨b', hb'⟩ := forestAt_merge htwo hk
    exact ⟨b, by rw [hb, hb']⟩
  have hkey : ∀ {k}, k < g.length → mergeKey f k = mergeKey g k := fun hk => by
    obtain ⟨b, hb⟩ := hold hk; exact mergeKey_of_forestAt hb
  obtain ⟨hleft, hright⟩ : (forestAt f g.length).left.toNat = lightest g ∧
      (forestAt f g.length).right.toNat = secondLightest g := by
    obtain ⟨b, hb⟩ := hsame g.length le_rfl
    rw [hb, forestAt_merge_length htwo]
    exact ⟨hg.mergedNode_left hn htwo, hg.mergedNode_right hn htwo⟩
  unfold JoinsTwoLeast
  rw [hleft, hright, hkey (lightest_lt htwo), hkey (secondLightest_lt htwo)]
  refine ⟨mergeKey_argminUnconsumed_lt (secondLightest_mem htwo) (secondLightest_ne htwo), fun k hk hone hsecond horphan => ?_⟩
  rw [hkey hk]
  refine mergeKey_secondLightest_lt htwo ?_ hone hsecond
  by_contra hjoined
  obtain ⟨p, hp, -⟩ := hg.parent k hk hjoined
  obtain ⟨hplt, hkind, hedge⟩ := hp
  obtain ⟨b, hb⟩ := hold hplt
  exact horphan p hplt.le ⟨hplt.trans hlen, by rw [hb]; exact hkind, by rw [hb]; exact hedge⟩

theorem joinsTwoLeast_forestOf (present : Vector Bool 256) (freq : Vector (BitVec 32) 256) {i : ℕ}
    (hni : (leavesOf present freq).length ≤ i) (hi : i < (forestOf present freq).length) :
    JoinsTwoLeast (forestOf present freq) i := by
  have hn := length_leavesOf_le present freq
  have hlen := length_forestOf present freq
  obtain ⟨g, hg, rfl, htwo, hsame⟩ := (growing_leavesOf present freq).exists_merge hn
    (k := (leavesOf present freq).length - 1) (by omega) hni (by omega)
  exact hg.joinsTwoLeast hn htwo hi hsame

/-! ### Internal weights (R96 (6)) -/

namespace ForestShape

variable {f : List Node} {n : ℕ} (h : ForestShape f n)
include h

theorem parentOf_child {p : ℕ} (hnp : n ≤ p) (hp : p < f.length) (b : Bool) :
    ParentOf f p ((forestAt f p).child b).toNat := by
  obtain ⟨hk, -⟩ := h.internal p hnp hp
  exact ⟨hp, hk, by cases b; exacts [.inl rfl, .inr rfl]⟩

theorem parent_unique {p q c : ℕ} (hc : c + 1 < f.length) (hp : ParentOf f p c) (hq : ParentOf f q c) : p = q := by
  obtain ⟨r, -, huniq⟩ := h.parent c hc
  rw [huniq p hp, huniq q hq]

/-- A child of the node after `i` that is not `i` itself was left aside when `i` was made, so it weighs no less than what `i` joins. -/
theorem weight_right_le_child {i : ℕ} (hj : JoinsTwoLeast f i) (hni : n ≤ i) (hi : i + 1 < f.length) (b : Bool)
    (hne : ((forestAt f (i + 1)).child b).toNat ≠ i) :
    (forestAt f (forestAt f i).right.toNat).weight.toNat ≤
      (forestAt f ((forestAt f (i + 1)).child b).toNat).weight.toNat := by
  have hlt := h.child_lt (show n ≤ i + 1 by omega) hi b
  have horphan : ∀ p ≤ i, ¬ ParentOf f p ((forestAt f (i + 1)).child b).toNat := fun p hp hpc => by
    have := h.parent_unique (by omega) hpc (h.parentOf_child (by omega) hi b); omega
  have hchild : ∀ b', ((forestAt f (i + 1)).child b).toNat ≠ ((forestAt f i).child b').toNat := fun b' heq =>
    horphan i le_rfl (heq ▸ h.parentOf_child hni (by omega) b')
  obtain ⟨-, hleast⟩ := hj
  exact weight_le_of_mergeKey_lt (hleast _ (by omega) (hchild false) (hchild true) horphan)

theorem weight_le_succ {i : ℕ} (hj : JoinsTwoLeast f i) (hni : n ≤ i) (hi : i + 1 < f.length) :
    (forestAt f i).weight.toNat ≤ (forestAt f (i + 1)).weight.toNat := by
  have hsum := h.weight i hni (by omega)
  have hsum' := h.weight (i + 1) (by omega) hi
  by_cases hl : (forestAt f (i + 1)).left.toNat = i
  · rw [hsum', hl]; exact Nat.le_add_right ..
  by_cases hr : (forestAt f (i + 1)).right.toNat = i
  · rw [hsum', hr]; exact Nat.le_add_left ..
  have hleft := h.weight_right_le_child hj hni hi false hl
  have hright := h.weight_right_le_child hj hni hi true hr
  simp only [Node.child, Bool.false_eq_true, if_false, if_true] at hleft hright
  obtain ⟨hless, -⟩ := hj
  have hjoined := weight_le_of_mergeKey_lt hless
  omega

theorem weight_mono (hjoins : ∀ i, n ≤ i → i < f.length → JoinsTwoLeast f i) {i j : ℕ} (hni : n ≤ i) (hij : i ≤ j)
    (hj : j < f.length) : (forestAt f i).weight.toNat ≤ (forestAt f j).weight.toNat := by
  induction j, hij using Nat.le_induction with
  | base => exact le_rfl
  | succ j hij ih => exact (ih (by omega)).trans (h.weight_le_succ (hjoins j (by omega) (by omega)) (by omega) hj)

end ForestShape

end Sys2Proof.Machine
end

section
/-!
PROOFS. The commands BUILD, QLEAVES and QROOT (spec/41_tree.md R95, R97, R98): the words that spell them and what they make of every
state.
-/

namespace Sys2Proof.Machine

/-! ### BUILD (R95) -/

/-- BUILD completes from every state (R95). -/
theorem exec_build (s : State) : exec .build s = .next (buildEffect s).complete := exec_of_none rfl

theorem eq_of_exec_build {s t : State} (h : exec .build s = .next t) : t = (buildEffect s).complete :=
  Host.Outcome.next.inj (h.symm.trans (exec_build s))

theorem nleaf_buildEffect (s : State) : (buildEffect s).nleaf.toNat = (leavesOf s.present s.freq).length := by
  rw [toNat_nleaf_buildEffect, length_leavesOf]

theorem ncount_buildEffect (s : State) : (buildEffect s).ncount.toNat = (forestOf s.present s.freq).length := by
  rw [(treeOk_buildEffect s).ncount_eq rfl, nleaf_buildEffect, length_forestOf]

theorem nodeAt_buildEffect (s : State) (i : ℕ) : nodeAt (buildEffect s).node i = forestAt (forestOf s.present s.freq) i :=
  nodeAt_arenaOf (by
    have := length_forestOf s.present s.freq; have := length_leavesOf_le s.present s.freq; omega) i

/-- Settles O29: the leaves in index order, the counters of a sound arena, and the effect written out. -/
theorem buildInsertsTheTableAndRootsTheCursor : Obligations.BuildInsertsTheTableAndRootsTheCursor := by
  refine ⟨fun w h => decode_of_fixed (by rw [h]; rfl) rfl, fun s => ⟨(buildEffect s).complete, exec_build s, ?_⟩⟩
  have htree := treeOk_buildEffect s
  refine ⟨toNat_nleaf_buildEffect s, htree.ncount_eq rfl, ?_, htree.toNat_root, fun b => ?_, rfl⟩
  · simp only [State.complete_nleaf, State.complete_node, nleaf_buildEffect, nodeAt_buildEffect]
    exact map_leaves_forestOf s.present s.freq
  · simp [buildEffect]

/-- Settles O30: the arena is sound, with a valid tree in it. -/
theorem buildMakesAForest : Obligations.BuildMakesAForest := by
  intro s t h
  obtain rfl := eq_of_exec_build h
  exact ⟨(treeOk_buildEffect s).shape rfl, treeOk_buildEffect s⟩

/-- Node `i` of BUILD's forest, if internal, joins the two least nodes (R94). -/
theorem joinsTwoLeast_of_exec_build {s t : State} (h : exec .build s = .next t) {i : ℕ} (hni : t.nleaf.toNat ≤ i)
    (hi : i < t.ncount.toNat) : JoinsTwoLeast t.forest i := by
  obtain rfl := eq_of_exec_build h
  rw [State.complete_nleaf, nleaf_buildEffect] at hni
  rw [State.complete_ncount, ncount_buildEffect] at hi
  have hforest : (buildEffect s).complete.forest = forestOf s.present s.freq := forest_buildEffect s
  rw [hforest]; exact joinsTwoLeast_forestOf s.present s.freq hni hi

/-- Settles O31: the merge that made node `i` took the two least unconsumed nodes, and a node without a parent is unconsumed. -/
theorem buildJoinsTheTwoLeastNodes : Obligations.BuildJoinsTheTwoLeastNodes := fun _ _ h _ hni hi =>
  joinsTwoLeast_of_exec_build h hni hi

/-- Settles O32: by induction from node to node, whose children were joined or left aside when the node before was made. -/
theorem internalWeightsDoNotDecrease : Obligations.InternalWeightsDoNotDecrease := by
  intro s t h i j hni hij hj
  obtain ⟨hshape, hncount, -⟩ := buildMakesAForest s t h
  rw [← length_forest hncount] at hj
  refine hshape.weight_mono (fun k hnk hk => joinsTwoLeast_of_exec_build h hnk ?_) hni hij hj
  rwa [← length_forest hncount]

/-! ### QLEAVES and QROOT (R97, R98) -/

/-- A counter of the forest less one, as a result word. -/
theorem setWidth_sub_one {n : ℕ} (hn : 0 < n) {x : BitVec n} (h : x.toNat ≠ 0) :
    (x - 1#n).setWidth 32 = BitVec.ofNat 32 (x.toNat - 1) := by
  have hone : (1#n).toNat = 1 := by
    rw [BitVec.toNat_ofNat]; exact Nat.mod_eq_of_lt (Nat.one_lt_two_pow hn.ne')
  have hle : 1#n ≤ x := BitVec.le_def.mpr (by omega)
  apply BitVec.eq_of_toNat_eq
  rw [BitVec.toNat_setWidth, BitVec.toNat_sub_of_le hle, hone, BitVec.toNat_ofNat]

/-- Settles O33: the checks in order, then NLEAF less one. -/
theorem qleavesReportsLeavesMinusOne : Obligations.QleavesReportsLeavesMinusOne := by
  refine ⟨fun w h => decode_of_fixed (by rw [h]; rfl) rfl, fun s => ⟨fun hv => ?_, fun hv hzero => ?_, fun hv hpos => ?_⟩⟩
  · exact raises_of_firstError (by simp [checksOf, qleavesChecks, firstError, hv])
  · have hempty : s.nleaf = 0#9 := BitVec.eq_of_toNat_eq hzero
    exact raises_of_firstError (by simp [checksOf, qleavesChecks, firstError, hv, hempty])
  · have hleaf : s.nleaf ≠ 0#9 := fun h => hpos (by rw [h]; rfl)
    rw [exec_of_none (by simp [checksOf, qleavesChecks, firstError, hv, hleaf]), ← setWidth_sub_one (by decide) hpos]
    rfl

/-- Settles O34: the checks in order, then NCOUNT less one. -/
theorem qrootReportsTheRootIndex : Obligations.QrootReportsTheRootIndex := by
  refine ⟨fun w h => decode_of_fixed (by rw [h]; rfl) rfl, fun s => ⟨fun hv => ?_, fun hv hzero => ?_, fun hv hpos => ?_⟩⟩
  · exact raises_of_firstError (by simp [checksOf, qrootChecks, firstError, hv])
  · have hempty : s.ncount = 0#10 := BitVec.eq_of_toNat_eq hzero
    exact raises_of_firstError (by simp [checksOf, qrootChecks, firstError, hv, hempty])
  · have hnode : s.ncount ≠ 0#10 := fun h => hpos (by rw [h]; rfl)
    rw [exec_of_none (by simp [checksOf, qrootChecks, firstError, hv, hnode]), ← setWidth_sub_one (by decide) hpos]
    rfl

end Sys2Proof.Machine
end

section
/-!
PROOFS. The lengths of the codes (spec/41_tree.md R100 (2), spec/42_codes.md R107 (3)): a node's share of the code space is its
children's together, so the leaves have the root's.
-/

namespace Sys2Proof.Machine

/-- The share of node `c` in the code space, 2^(−length) of its path, here times 2^255. -/
def codeShare (f : List Node) (c : ℕ) : ℕ := 2 ^ (255 - (codePath f c).length)

theorem codeShare_root (f : List Node) : codeShare f (f.length - 1) = 2 ^ 255 := by
  rw [codeShare, codePath_root]; rfl

namespace ForestShape

variable {f : List Node} {n : ℕ} (h : ForestShape f n)
include h

/-- An internal node shares its part out to its two children. -/
theorem sum_codeShare_child {p : ℕ} (hnp : n ≤ p) (hp : p < f.length) :
    ∑ b : Bool, codeShare f ((forestAt f p).child b).toNat = codeShare f p := by
  have hlen : (codePath f p).length + 1 ≤ 255 := by
    have hle := h.length_codePath_le ((forestAt f p).child false).toNat
    rw [h.codePath_child hnp hp, List.length_append, List.length_singleton] at hle
    have := h.bound
    omega
  simp only [codeShare, h.codePath_child hnp hp, List.length_append, List.length_singleton, Fintype.sum_bool]
  rw [← two_mul, ← pow_succ']
  congr 1; omega

/-- No two edges lead to one node (R96 (3), (4)). -/
theorem child_inj {p q : ℕ} (hnp : n ≤ p) (hp : p < f.length) (hnq : n ≤ q) (hq : q < f.length) {b b' : Bool}
    (heq : ((forestAt f p).child b).toNat = ((forestAt f q).child b').toNat) : p = q ∧ b = b' := by
  have hlt := h.child_lt hnp hp b
  obtain rfl := h.parent_unique (by omega) (h.parentOf_child hnp hp b) (heq ▸ h.parentOf_child hnq hq b')
  have hpath := congrArg (codePath f) heq
  rw [h.codePath_child hnp hp, h.codePath_child hnp hp, List.append_cancel_left_eq, List.singleton_inj] at hpath
  exact ⟨rfl, hpath⟩

/-- The nodes below the root are the children of the internal nodes, each once (R96 (4)). -/
theorem sum_children (g : ℕ → ℕ) :
    ∑ p ∈ Finset.Ico n f.length, ∑ b : Bool, g ((forestAt f p).child b).toNat = ∑ c ∈ Finset.range (f.length - 1), g c := by
  rw [← Finset.sum_product']
  refine Finset.sum_nbij (fun e => ((forestAt f e.1).child e.2).toNat) ?_ ?_ ?_ fun _ _ => rfl
  · rintro ⟨p, b⟩ he
    obtain ⟨hnp, hp⟩ := Finset.mem_Ico.mp (Finset.mem_product.mp he).1
    have : ((forestAt f p).child b).toNat < p := h.child_lt hnp hp b
    exact Finset.mem_range.mpr (show ((forestAt f p).child b).toNat < f.length - 1 by omega)
  · rintro ⟨p, b⟩ he ⟨q, b'⟩ he' heq
    obtain ⟨hnp, hp⟩ := Finset.mem_Ico.mp (Finset.mem_product.mp he).1
    obtain ⟨hnq, hq⟩ := Finset.mem_Ico.mp (Finset.mem_product.mp he').1
    obtain ⟨rfl, rfl⟩ := h.child_inj hnp hp hnq hq heq
    rfl
  · intro c hc
    obtain ⟨p, b, hnp, hp, hchild⟩ := h.exists_child (c := c) (by have := Finset.mem_range.mp hc; omega)
    exact ⟨(p, b), by simp [hnp, hp], hchild⟩

/-- The leaves' shares fill the code space: what the internal nodes hold is what they share out (R107 (3)). -/
theorem sum_codeShare_leaves (hn : 1 ≤ n) : ∑ i ∈ Finset.range n, codeShare f i = 2 ^ 255 := by
  have hcount := h.count
  have hinternal : ∑ p ∈ Finset.Ico n f.length, codeShare f p = ∑ c ∈ Finset.range (f.length - 1), codeShare f c := by
    rw [← h.sum_children]
    refine Finset.sum_congr rfl fun p hp => ?_
    obtain ⟨hnp, hp⟩ := Finset.mem_Ico.mp hp
    exact (h.sum_codeShare_child hnp hp).symm
  have hleaves := Finset.sum_range_add_sum_Ico (codeShare f) (show n ≤ f.length by omega)
  have hroot := Finset.sum_range_succ (codeShare f) (f.length - 1)
  rw [Nat.sub_add_cancel (by omega), codeShare_root] at hroot
  omega

end ForestShape

/-- Settles O39: the shares of the leaves, the number of internal nodes, and a leaf's last edge. -/
theorem codeLengthsFillTheTree : Obligations.CodeLengthsFillTheTree := by
  refine fun f n h hn => ⟨h.sum_codeShare_leaves hn, fun i hi => ⟨h.length_codePath_le i, fun htwo => ?_⟩⟩
  obtain ⟨p, b, hnp, hp, rfl⟩ := h.exists_child (c := i) (by have := h.count; omega)
  rw [h.codePath_child hnp hp, List.length_append]
  exact Nat.le_add_left ..

end Sys2Proof.Machine
end

section
/-!
PROOFS. The commands EXTRACT, QLEN and QBITS (spec/42_codes.md R106, R108, R109): the table of a built forest as numbers, and the
words that spell the commands.
-/

namespace Sys2Proof.Machine

/-! ### EXTRACT (R106) -/

/-- A leaf's path fits the table: its length in 8 bits, its number in 256 (R100 (2), R106). -/
theorem toNat_codeTable_leaf {f : List Node} {n : ℕ} (h : ForestShape f n) {i : ℕ} (hi : i < n) :
    (symGet (codeTable f n).len (forestAt f i).symbol).toNat = (codePath f i).length ∧
    (symGet (codeTable f n).bits (forestAt f i).symbol).toNat = bitsOf (codePath f i) := by
  obtain ⟨-, hlen, hbits⟩ := codeTable_leaf h le_rfl hi
  have hpath : (codePath f i).length ≤ 255 := by
    have := h.length_codePath_le i; have := h.bound; omega
  have hnumber : bitsOf (codePath f i) < 2 ^ 256 :=
    (bitsOf_lt _).trans (Nat.pow_lt_pow_right (by decide) (Nat.lt_succ_of_le hpath))
  rw [hlen, hbits, BitVec.toNat_ofNat, BitVec.toNat_ofNat]
  exact ⟨Nat.mod_eq_of_lt (Nat.lt_succ_of_le hpath), Nat.mod_eq_of_lt hnumber⟩

/-- An absent symbol's entry is 0 (R88, R106). -/
theorem codeTable_of_absent {f : List Node} {k : ℕ} {b : Byte} (hb : symGet (codeTable f k).valid b = false) :
    symGet (codeTable f k).len b = 0#8 ∧ symGet (codeTable f k).bits b = 0#256 := by
  induction k with
  | zero => simp [codeTable, CodeTable.empty]
  | succ k ih =>
    simp only [codeTable_succ, CodeTable.enter, symGet_symSet] at hb ⊢
    split at hb
    next => cases hb
    next hne => rw [if_neg hne, if_neg hne]; exact ih hb

/-- The codes' bits are counted by the lengths of the leaves' paths (R106). -/
theorem totalBits_codeTable {f : List Node} {n : ℕ} (h : ForestShape f n) : totalBits f n (codeTable f n) =
    ((List.range n).map fun i => (forestAt f i).weight.toNat * (codePath f i).length).sum := by
  refine congrArg List.sum (List.map_congr_left fun i hi => ?_)
  rw [(toNat_codeTable_leaf h (List.mem_range.mp hi)).1]

/-- Settles O36: the checks in order, then the table of the forest, leaf by leaf. -/
theorem extractFillsTheCodeTable : Obligations.ExtractFillsTheCodeTable := by
  refine ⟨fun w h => decode_of_fixed (by rw [h]; rfl) rfl,
    fun s => ⟨fun hv => ?_, fun hv hzero => ?_, fun hv hpos hshape => ?_⟩⟩
  · exact raises_of_firstError (by simp [checksOf, extractChecks, firstError, hv])
  · have hempty : s.ncount = 0#10 := BitVec.eq_of_toNat_eq hzero
    exact raises_of_firstError (by simp [checksOf, extractChecks, firstError, hv, hempty])
  · have hnode : s.ncount ≠ 0#10 := fun h => hpos (by rw [h]; rfl)
    refine ⟨(extractEffect s).complete, exec_of_none (by simp [checksOf, extractChecks, firstError, hv, hnode]),
      fun i hi => ?_, fun b hb => ?_, ?_, rfl⟩
    · exact ⟨(codeTable_leaf hshape le_rfl hi).1, toNat_codeTable_leaf hshape hi⟩
    · have habsent : symGet (codeTable s.forest s.nleaf.toNat).valid b = false := by
        rw [Bool.eq_false_iff]
        intro hvalid
        obtain ⟨i, hi, hs⟩ := exists_leaf_of_valid hvalid
        exact hb i hi hs
      exact ⟨habsent, codeTable_of_absent habsent⟩
    · rw [← totalBits_codeTable hshape]
      exact (BitVec.toNat_ofNat ..).trans (Nat.mod_mod ..)

/-! ### QLEN and QBITS (R108, R109) -/

section
variable {s : State} (hv : s.codesValid = true)
include hv

theorem firstError_staleCheck : firstError [staleCheck s] = none := by simp [staleCheck, firstError, hv]

theorem exec_qlen (sym : Byte) : exec (.qlen sym) s =
    .next { s with
      result := BitVec.ofBool (symGet s.codeValid sym) ++ 0#23 ++ symGet s.codeLen sym, pending := none } :=
  exec_of_none (firstError_staleCheck hv)

theorem exec_qbits (sym : Byte) (k : BitVec 3) : exec (.qbits sym k) s =
    .next { s with result := (symGet s.codeBits sym).extractLsb' (32 * k.toNat) 32, pending := none } :=
  exec_of_none (firstError_staleCheck hv)

/-- While the codes are valid, the length of an absent symbol is 0 (R108). -/
theorem codeLen_of_absent (hc : CodesOk s) {sym : Byte} (hsym : symGet s.codeValid sym = false) :
    symGet s.codeLen sym = 0#8 := by
  have htable := codeTable_of_codesOk hc hv
  have habsent := codeTable_of_absent (f := s.forest) (k := s.nleaf.toNat) (b := sym)
  rw [← htable] at habsent
  exact (habsent hsym).1

end

theorem raises_codesStale {s : State} {i : Instr} (hi : checksOf s i = [staleCheck s]) (hv : s.codesValid = false) :
    Raises i s .codesStale :=
  raises_of_firstError (by simp [hi, staleCheck, firstError, hv])

/-- QLEN's result as a number (R108). -/
theorem toNat_qlenWord (present : Bool) (len : BitVec 8) :
    (BitVec.ofBool present ++ 0#23 ++ len).toNat = present.toNat * 2 ^ 31 + len.toNat := by
  rw [toNat_append_eq_add, toNat_append_eq_add, BitVec.toNat_ofBool, BitVec.toNat_ofNat]
  omega

/-- Settles O40: the fields of the result, and an absent symbol's entry. -/
theorem qlenReportsTheLength : Obligations.QlenReportsTheLength := by
  refine ⟨fun w h => decode_of_aOperand (by rw [h]; rfl) rfl,
    fun s sym => ⟨raises_codesStale rfl, fun hv => ⟨_, exec_qlen hv sym, ?_⟩, fun hv hc hsym => ?_⟩⟩
  · have hword := toNat_qlenWord (symGet s.codeValid sym) (symGet s.codeLen sym)
    have hlen := (symGet s.codeLen sym).isLt
    have hvalid := (symGet s.codeValid sym).toNat_le
    exact ⟨getLsbD_eq_of_div (by omega), extractLsb'_eq_of_div (by rw [BitVec.toNat_setWidth]; omega)⟩
  · rw [exec_qlen hv, hsym, codeLen_of_absent hv hc hsym]; rfl

/-- The words of QBITS (R72, R73). -/
theorem decode_qbits {w : Word} (h : opField w = 0x22#8) : decode w =
    if (immField w).toNat < 8 then .ok (.qbits (aField w) (kField w)) else .error .reservedBit := by
  have hrow : rowOf (opField w) = some ⟨"QBITS", 0x22000000#32, 0xFF00FFF8#32, fun w => .qbits (aField w) (kField w)⟩ := by
    rw [h]; rfl
  have hmask : w &&& 0xFF00FFF8#32 = 0x22000000#32 ↔ (immField w).toNat < 8 :=
    (masked_eq_iff (a := 0#8) (imm := 0xFFF8#16) h).trans
      ((and_iff_right BitVec.and_zero).trans (and_high_eq_zero_iff (immField w) 3))
  rw [decode_of_row hrow]
  simp only [hmask]

/-- Settles O41: the word of the code value as a number. -/
theorem qbitsReportsAWordOfTheCode : Obligations.QbitsReportsAWordOfTheCode := by
  refine ⟨fun w h => decode_qbits h,
    fun s sym k => ⟨raises_codesStale rfl, fun hv => ⟨_, exec_qbits hv sym k, ?_⟩⟩⟩
  rw [BitVec.extractLsb'_toNat, Nat.shiftRight_eq_div_pow]

end Sys2Proof.Machine
end

section
/-!
PROOFS. No leaf's path begins another's (spec/42_codes.md R105, R107 (2)), and the decoding of codes one bit at a time
(spec/44_unpack.md R140, R144).
-/

namespace Sys2Proof.Machine

/-! ### Paths (R105, R107) -/

/-- Settles O37: the path of a child, on each edge. -/
theorem pathsDescendFromTheRoot : Obligations.PathsDescendFromTheRoot := fun f _ h =>
  ⟨codePath_root f, fun _ hnp hp => ⟨h.codePath_child hnp hp false, h.codePath_child hnp hp true⟩⟩

namespace ForestShape

variable {f : List Node} {n : ℕ} (h : ForestShape f n)
include h

/-- The root alone has the empty path (R105). -/
theorem codePath_eq_nil_iff {i : ℕ} (hi : i < f.length) : codePath f i = [] ↔ i = f.length - 1 := by
  constructor
  · intro hnil
    by_contra hroot
    obtain ⟨p, b, hnp, hp, rfl⟩ := h.exists_child (c := i) (by omega)
    rw [h.codePath_child hnp hp] at hnil
    exact List.concat_ne_nil _ _ hnil
  · rintro rfl; exact codePath_root f

/-- No two nodes have one path: the last bits agree, and so do the parents. -/
theorem codePath_inj {i j : ℕ} (hi : i < f.length) (hj : j < f.length) (heq : codePath f i = codePath f j) : i = j := by
  by_cases hroot : i = f.length - 1
  · have hnil := (h.codePath_eq_nil_iff hi).mpr hroot
    rw [heq, h.codePath_eq_nil_iff hj] at hnil
    rw [hroot, hnil]
  · have hroot' : j ≠ f.length - 1 := by
      rwa [Ne, ← h.codePath_eq_nil_iff hj, ← heq, h.codePath_eq_nil_iff hi]
    obtain ⟨p, b, hnp, hp, rfl⟩ := h.exists_child (c := i) (by omega)
    obtain ⟨q, b', hnq, hq, rfl⟩ := h.exists_child (c := j) (by omega)
    have hlt := h.child_lt hnp hp b
    rw [h.codePath_child hnp hp, h.codePath_child hnq hq] at heq
    obtain ⟨hparents, hbits⟩ := List.append_inj' heq rfl
    rw [codePath_inj hp hq hparents, List.singleton_inj.mp hbits]
termination_by f.length - i

/-- A leaf's path begins no other node's path: it is not a parent's, so it ends where the other does. -/
theorem eq_of_codePath_prefix {i j : ℕ} (hi : i < n) (hj : j < f.length) (hprefix : codePath f i <+: codePath f j) : i = j := by
  have hlen : i < f.length := by have := h.count; omega
  by_cases hroot : j = f.length - 1
  · rw [(h.codePath_eq_nil_iff hj).mpr hroot, List.prefix_nil, h.codePath_eq_nil_iff hlen] at hprefix
    rw [hprefix, hroot]
  · obtain ⟨p, b, hnp, hp, rfl⟩ := h.exists_child (c := j) (by omega)
    have hlt := h.child_lt hnp hp b
    have hpath := h.codePath_child hnp hp b
    rw [hpath, List.prefix_concat_iff, ← hpath] at hprefix
    obtain heq | hparent := hprefix
    · exact h.codePath_inj hlen hj heq
    · have := eq_of_codePath_prefix hi hp hparent
      omega
termination_by f.length - j

end ForestShape

/-- Settles O38: a path that begins another's is the path of the same node. -/
theorem codesArePrefixFree : Obligations.CodesArePrefixFree := fun _ _ h i j hi hj hne hprefix =>
  hne (h.eq_of_codePath_prefix hi (by have := h.count; omega) hprefix)

/-! ### Decoding one bit at a time (R140, R141) -/

theorem walk_append (s : State) (a b : List Bool) : (s.walk a).walk b = s.walk (a ++ b) := by
  have hafter := walkBits_after s.node (rootIdx s.ncount) (walkBits s.node (rootIdx s.ncount) ⟨s.decCur, []⟩ a).cur
    (walkBits s.node (rootIdx s.ncount) ⟨s.decCur, []⟩ a).out [] b
  rw [List.append_nil] at hafter
  simp only [State.walk, walkBits_append]
  rw [hafter]
  simp [State.setWalk, State.emits]

/-- DECODE of one bit, with nothing pending, is the walk over the bit. -/
theorem exec_decodeBit {s : State} (hv : s.treeValid = true) (hncount : s.ncount ≠ 0#10) (hnleaf : s.nleaf ≠ 1#9)
    (hp : s.pending = none) (b : Bool) : exec (decodeBit b) s = .next (s.walk [b]) := by
  have hbits : nbitsBad 1#8 = false := rfl
  have hchecks : firstError (checksOf s (decodeBit b)) = none := by
    simp [checksOf, decodeBit, decodeChecks, firstError, hbits, hv, hncount, hnleaf]
  have heffect : effectOf s (decodeBit b) = s.walk [b] := by cases b <;> rfl
  have hidle : (s.walk [b]).pending = none := hp
  rw [exec_of_none hchecks, heffect, State.complete, ← hidle]

/-- One-bit DECODE commands are one walk over their bits. -/
theorem execAll_decodeBit {s : State} (hv : s.treeValid = true) (hncount : s.ncount ≠ 0#10) (hnleaf : s.nleaf ≠ 1#9)
    (hp : s.pending = none) (bits : List Bool) : execAll (bits.map decodeBit) s = .next (s.walk bits) := by
  induction bits generalizing s with
  | nil => simp [execAll, State.walk, walkBits, State.setWalk, State.emits]
  | cons b bits ih =>
    have hrest : execAll (bits.map decodeBit) (s.walk [b]) = .next ((s.walk [b]).walk bits) := ih hv hncount hnleaf hp
    rw [List.map_cons, execAll, exec_decodeBit hv hncount hnleaf hp]
    exact hrest.trans (congrArg _ (walk_append ..))

/-- Settles O48: the commands are one walk over the codes, which emits the symbols and ends at the root. -/
theorem decodingCodesGivesTheSymbols : Obligations.DecodingCodesGivesTheSymbols := by
  intro s xs ht hc hcv h2 hcur hp hxs
  have hv := treeValid_of_codesOk hc hcv
  have hncount : s.ncount ≠ 0#10 := fun h => by
    have := ht.ncount_eq hv; rw [h] at this; simp at this; omega
  have hnleaf : s.nleaf ≠ 1#9 := fun h => by rw [h] at h2; exact absurd h2 (by decide)
  rw [execAll_decodeBit hv hncount hnleaf hp, State.walk, hcur, walkBits_codes ht hv h2 hc hcv hxs, List.nil_append, ← hcur]
  rfl

end Sys2Proof.Machine
end

section
/-!
PROOFS. The bit-packer (spec/43_pack.md R120 to R125): what ENCODE and PACK append to the packed stream, how FLUSH pads it to a byte,
and that packing commands followed by FLUSH emit the concatenation of their bits.
-/

namespace Sys2Proof.Machine

/-! ### PACK's operands (R122) -/

theorem packOk_iff {len : BitVec 8} {bits : BitVec 16} :
    packOk len bits = true ↔ len.toNat ≤ 16 ∧ bits.toNat < 2 ^ len.toNat := by
  rw [packOk, Bool.and_eq_true, decide_eq_true_eq, beq_iff_eq, ← BitVec.toNat_inj, BitVec.toNat_ushiftRight,
    Nat.shiftRight_eq_div_pow]
  exact and_congr_right fun _ => Nat.div_eq_zero_iff_lt (by positivity)

/-- PACK's one error is raised exactly when its operands are out of range. -/
theorem firstError_packChecks (len : BitVec 8) (bits : BitVec 16) :
    firstError (packChecks len bits) = if packOk len bits then none else some .illegalOperand := by
  have hwide : ¬ len.toNat < 16 → bits >>> len.toNat = 0#16 := fun h =>
    BitVec.eq_of_toNat_eq (by
      rw [BitVec.toNat_ushiftRight, Nat.shiftRight_eq_div_pow]
      exact Nat.div_eq_of_lt (bits.isLt.trans_le (Nat.pow_le_pow_right (by decide) (Nat.le_of_not_lt h))))
  by_cases hlen : 16 < len.toNat
  · simp [packChecks, firstError, lenBad, packOk, hlen]
  · by_cases hbits : bits >>> len.toNat = 0#16
    · simp [packChecks, firstError, lenBad, bitsBad, packOk, hlen, hbits]
    · have : len.toNat < 16 := by_contra fun h => hbits (hwide h)
      simp [packChecks, firstError, lenBad, bitsBad, packOk, this, hbits]

theorem raises_of_not_packOk {s : State} {len : BitVec 8} {bits : BitVec 16} (h : ¬ packOk len bits = true) :
    Raises (.pack len bits) s .illegalOperand :=
  raises_of_firstError ((firstError_packChecks len bits).trans (if_neg h))

/-- The words of PACK: every word of its OP (R72, R73). -/
theorem decode_pack {w : Word} (h : opField w = 0x31#8) : decode w = .ok (.pack (aField w) (immField w)) := by
  have hrow : rowOf (opField w) = some ⟨"PACK", 0x31000000#32, 0xFF000000#32, fun w => .pack (aField w) (immField w)⟩ := by
    rw [h]; rfl
  have hmask : w &&& 0xFF000000#32 = 0x31000000#32 :=
    (masked_eq_iff (a := 0#8) (imm := 0#16) h).mpr ⟨BitVec.and_zero, BitVec.and_zero⟩
  rw [decode_of_row hrow, if_pos hmask]

/-! ### Bits packed into a state (R120) -/

theorem packerOk_pack {s : State} (h : PackerOk s) (bits : List Bool) : PackerOk (s.pack bits) :=
  packBits_acc_lt (p := s.packer) h bits

theorem streamBits_pack {s : State} (h : PackerOk s) (bits : List Bool) :
    (s.pack bits).streamBits = s.streamBits ++ bits := by
  have hstream : (packBits s.packer bits).stream = lowBits s.pkAcc s.pkCnt.toNat ++ bits := packBits_stream (p := s.packer) h bits
  calc (s.pack bits).streamBits
    _ = s.outq.flatMap byteBits ++ (packBits s.packer bits).stream := by
      simp [State.streamBits, State.pack, Packer.stream]
    _ = s.streamBits ++ bits := by rw [hstream, ← List.append_assoc]; rfl

/-- A command that packs bits has no error, and packing them is its whole effect (R121, R122). -/
theorem exec_of_packs {s : State} {i : Instr} {bits : List Bool} (h : Packs s i bits) :
    exec i s = .next (s.pack bits).complete := by
  obtain ⟨sym, rfl, hv, hsym, rfl⟩ | ⟨len, v, rfl, hok, rfl⟩ := h
  · exact exec_of_none (by simp [checksOf, encodeChecks, firstError, hv, hsym])
  · exact exec_of_none ((firstError_packChecks len v).trans (if_pos hok))

/-- What ENCODE and PACK have in common: the packer and the queue alone change, and the stream grows by the bits packed. -/
theorem packs_appends {s : State} {i : Instr} {bits : List Bool} (h : Packs s i bits) :
    ∃ t bytes, exec i s = .next t ∧
      t = { s with pkAcc := t.pkAcc, pkCnt := t.pkCnt, outq := s.outq ++ bytes, pending := none } ∧
      (PackerOk s → PackerOk t ∧ t.streamBits = s.streamBits ++ bits) :=
  ⟨_, _, exec_of_packs h, rfl, fun hs => ⟨packerOk_pack hs bits, streamBits_pack hs bits⟩⟩

/-- Settles O42: the checks in order, then the code packed. -/
theorem encodeAppendsTheCode : Obligations.EncodeAppendsTheCode := by
  refine ⟨fun w h => decode_of_aOperand (by rw [h]; rfl) rfl, fun s sym => ⟨fun hv => ?_, fun hv hsym => ?_, fun hv hsym => ?_⟩⟩
  · exact raises_of_firstError (by simp [checksOf, encodeChecks, firstError, hv])
  · exact raises_of_firstError (by simp [checksOf, encodeChecks, firstError, hv, hsym])
  · exact packs_appends (.inl ⟨sym, rfl, hv, hsym, rfl⟩)

/-- Settles O43: the operands out of range in either way, then the literal packed. -/
theorem packAppendsItsBits : Obligations.PackAppendsItsBits := by
  refine ⟨fun w => decode_pack, fun s len bits => ⟨fun hlen => ?_, fun _ hbits => ?_, fun hlen hbits => ?_⟩⟩
  · exact raises_of_not_packOk fun hok => by have := (packOk_iff.mp hok).1; omega
  · exact raises_of_not_packOk fun hok => by have := (packOk_iff.mp hok).2; omega
  · exact packs_appends (.inr ⟨len, bits, rfl, packOk_iff.mpr ⟨hlen, hbits⟩, rfl⟩)

/-! ### FLUSH (R123) -/

section
variable {s : State}

theorem exec_flush_of_empty (h : s.pkCnt.toNat = 0) : exec .flush s = .next { s with pending := none } := by
  rw [exec_of_none rfl, effectOf, flushEffect, if_neg (by omega)]; rfl

theorem exec_flush_of_held (h : 0 < s.pkCnt.toNat) :
    exec .flush s = .next { s with outq := s.outq ++ [s.pkAcc], pkAcc := 0#8, pkCnt := 0#3, pending := none } := by
  rw [exec_of_none rfl, effectOf, flushEffect, if_pos h]; rfl

/-- The accumulator's bits above those held are 0 (R38). -/
theorem PackerOk.getLsbD_pkAcc (h : PackerOk s) {j : ℕ} (hj : s.pkCnt.toNat ≤ j) : s.pkAcc.getLsbD j = false := by
  rw [← BitVec.testBit_toNat]
  exact Nat.testBit_lt_two_pow (h.trans_le (Nat.pow_le_pow_right (by decide) hj))

theorem PackerOk.pkAcc_eq_zero (h : PackerOk s) (hcnt : s.pkCnt.toNat = 0) : s.pkAcc = 0#8 := by
  rw [PackerOk, hcnt, pow_zero, Nat.lt_one_iff] at h
  exact BitVec.eq_of_toNat_eq h

/-- The accumulator as a byte is the bits held and zeros (R123). -/
theorem PackerOk.byteBits_pkAcc (h : PackerOk s) :
    byteBits s.pkAcc = lowBits s.pkAcc s.pkCnt.toNat ++ List.replicate (8 - s.pkCnt.toNat) false := by
  have hcnt := s.pkCnt.isLt
  refine List.ext_getElem (by simp [byteBits]; omega) fun j hj _ => ?_
  by_cases hlt : j < s.pkCnt.toNat
  · simp [byteBits, lowBits, hlt]
  · simpa [byteBits, lowBits, List.getElem_append, hlt] using h.getLsbD_pkAcc (Nat.le_of_not_lt hlt)

/-- FLUSH empties the packer and pads the stream to whole bytes (R123, R125). -/
theorem flush_pads_stream (h : PackerOk s) :
    ∃ t pad, exec .flush s = .next t ∧ s.outq <+: t.outq ∧ pad < 8 ∧
      t.streamBits = s.streamBits ++ List.replicate pad false ∧ t.pkCnt = 0#3 ∧ t.pkAcc = 0#8 := by
  by_cases hcnt : s.pkCnt.toNat = 0
  · exact ⟨_, 0, exec_flush_of_empty hcnt, List.prefix_rfl, by decide, (List.append_nil _).symm,
      BitVec.eq_of_toNat_eq hcnt, h.pkAcc_eq_zero hcnt⟩
  · refine ⟨_, 8 - s.pkCnt.toNat, exec_flush_of_held (Nat.pos_of_ne_zero hcnt), List.prefix_append .., by omega, ?_, rfl, rfl⟩
    simp [State.streamBits, h.byteBits_pkAcc, lowBits]

end

/-- Settles O44: nothing held, and a partial byte. -/
theorem flushEmitsThePartialByte : Obligations.FlushEmitsThePartialByte := by
  refine ⟨fun w h => decode_of_fixed (by rw [h]; rfl) rfl, fun s => ⟨exec_flush_of_empty, exec_flush_of_held, fun hs => ?_⟩⟩
  obtain ⟨t, -, ht, -, -, -, hcnt, hacc⟩ := flush_pads_stream hs
  exact ⟨⟨t, ht, by rw [State.pkStat, hcnt, hacc]; rfl⟩, fun _ => hs.getLsbD_pkAcc⟩

/-! ### Packing commands one after the other (R125) -/

/-- Commands that complete are followed by the rest from the state they leave. -/
theorem execAll_append {is : List Instr} {s t : State} (h : execAll is s = .next t) (js : List Instr) :
    execAll (is ++ js) s = execAll js t := by
  induction is generalizing s with
  | nil => cases h; rfl
  | cons i is ih =>
    cases hi : exec i s with
    | next u => simp only [execAll, hi, List.cons_append] at h ⊢; exact ih h
    | fault | refused => simp [execAll, hi] at h

/-- Packing commands append all their bits to the stream: none changes what a later one packs. -/
theorem execAll_packs {s : State} {cmds : List (Instr × List Bool)} (hs : PackerOk s) (hp : ∀ c ∈ cmds, Packs s c.1 c.2) :
    ∃ t, execAll (cmds.map Prod.fst) s = .next t ∧ PackerOk t ∧ s.outq <+: t.outq ∧
      t.streamBits = s.streamBits ++ cmds.flatMap Prod.snd := by
  induction cmds generalizing s with
  | nil => exact ⟨s, rfl, hs, List.prefix_rfl, (List.append_nil _).symm⟩
  | cons c cmds ih =>
    obtain ⟨hc, hrest⟩ := List.forall_mem_cons.mp hp
    obtain ⟨t, ht, hok, hqueue, hstream⟩ := ih (s := (s.pack c.2).complete) (packerOk_pack hs c.2) hrest
    refine ⟨t, ?_, hok, (List.prefix_append ..).trans hqueue, ?_⟩
    · simp only [List.map_cons, execAll, exec_of_packs hc, ht]
    · calc t.streamBits
        _ = (s.pack c.2).streamBits ++ cmds.flatMap Prod.snd := hstream
        _ = s.streamBits ++ (c :: cmds).flatMap Prod.snd := by
          rw [streamBits_pack hs, List.append_assoc, List.flatMap_cons]

theorem streamBits_of_empty {s : State} (h : s.pkCnt = 0#3) : s.streamBits = s.outq.flatMap byteBits := by
  simp [State.streamBits, h, lowBits]

/-- Settles O45: the stream after FLUSH is the stream before, the bits packed and the padding, all of it in the queue. -/
theorem packedStreamIsTheConcatenation : Obligations.PackedStreamIsTheConcatenation := by
  intro s cmds hs hempty hp
  obtain ⟨t, ht, hok, hqueue, hstream⟩ := execAll_packs hs hp
  obtain ⟨u, pad, hu, hqueue', hpad, hflush, hcnt, hacc⟩ := flush_pads_stream hok
  obtain ⟨bytes, hbytes⟩ := hqueue.trans hqueue'
  refine ⟨u, bytes, pad, ?_, hbytes.symm, hpad, ?_, hcnt, hacc⟩
  · simp only [execAll_append ht, execAll, hu]
  · rw [streamBits_of_empty hcnt, ← hbytes, List.flatMap_append, hstream, streamBits_of_empty hempty, List.append_assoc] at hflush
    exact List.append_cancel_left hflush

end Sys2Proof.Machine
end

section
/-!
PROOFS. The bit-unpacker (spec/44_unpack.md R140 to R142): the words of DECODE and DECRESET, DECODE's errors in order, the walk of one bit
and of several, and the cursor back at the root.
-/

namespace Sys2Proof.Machine

/-! ### DECODE's words and checks (R72, R141) -/

/-- The words of DECODE (R72, R73). -/
theorem decode_decode {w : Word} (h : opField w = 0x40#8) : decode w =
    if (immField w).toNat < 256 then .ok (.decode (aField w) (byteField w)) else .error .reservedBit := by
  have hrow : rowOf (opField w) =
      some ⟨"DECODE", 0x40000000#32, 0xFF00FF00#32, fun w => .decode (aField w) (byteField w)⟩ := by
    rw [h]; rfl
  have hmask : w &&& 0xFF00FF00#32 = 0x40000000#32 ↔ (immField w).toNat < 256 :=
    (masked_eq_iff (a := 0#8) (imm := 0xFF00#16) h).trans
      ((and_iff_right BitVec.and_zero).trans (and_high_eq_zero_iff (immField w) 8))
  rw [decode_of_row hrow]
  simp only [hmask]

/-- Which error DECODE raises, if any: the conditions on its operand and on the tree, in order. -/
theorem firstError_decode (s : State) (nbits : BitVec 8) (byte : Byte) :
    firstError (checksOf s (.decode nbits byte)) =
      if nbits.toNat = 0 ∨ 8 < nbits.toNat then some .illegalOperand
      else if s.treeValid = false then some .noTree
      else if s.ncount.toNat = 0 then some .emptyTree
      else if s.nleaf.toNat = 1 then some .degenerateTree
      else none := by
  have hcount : s.ncount = 0#10 ↔ s.ncount.toNat = 0 := BitVec.toNat_inj.symm
  have hleaf : s.nleaf = 1#9 ↔ s.nleaf.toNat = 1 := BitVec.toNat_inj.symm
  simp only [checksOf, decodeChecks, firstError, nbitsBad, Bool.or_eq_true, decide_eq_true_eq, Bool.not_eq_true', beq_iff_eq,
    hcount, hleaf, gt_iff_lt]

/-- With 1 to 8 bits the tree alone decides. -/
theorem firstError_decode_of_nbits {nbits : BitVec 8} (hpos : 1 ≤ nbits.toNat) (hle : nbits.toNat ≤ 8) (s : State)
    (byte : Byte) : firstError (checksOf s (.decode nbits byte)) =
      if s.treeValid = false then some .noTree
      else if s.ncount.toNat = 0 then some .emptyTree
      else if s.nleaf.toNat = 1 then some .degenerateTree
      else none :=
  (firstError_decode s nbits byte).trans (if_neg (by omega))

/-- On a tree that is not empty and not one leaf, DECODE of 1 to 8 bits is the walk over them, bit 0 first (R141). -/
theorem exec_decode {s : State} (hv : s.treeValid = true) (hcount : s.ncount.toNat ≠ 0) (hleaf : s.nleaf.toNat ≠ 1)
    {nbits : BitVec 8} (hpos : 1 ≤ nbits.toNat) (hle : nbits.toNat ≤ 8) (byte : Byte) :
    exec (.decode nbits byte) s = .next (s.walk (lowBits byte nbits.toNat)).complete :=
  exec_of_none (by simp [firstError_decode_of_nbits hpos hle, hv, hcount, hleaf])

/-- Settles O46: the first check that holds is the error; else the walk emits at most one symbol for each bit. -/
theorem decodeTrapsOrCompletes : Obligations.DecodeTrapsOrCompletes := by
  refine ⟨fun w h => decode_decode h, fun s nbits byte => ⟨fun hbad => ?_, fun hpos hle hv => ?_, fun hpos hle hv hzero => ?_,
    fun hpos hle hv hcount hone => ?_, fun hpos hle hv hcount hleaf => ?_⟩⟩
  · exact raises_of_firstError ((firstError_decode s nbits byte).trans (if_pos hbad))
  · exact raises_of_firstError (by simp [firstError_decode_of_nbits hpos hle, hv])
  · exact raises_of_firstError (by simp [firstError_decode_of_nbits hpos hle, hv, hzero])
  · exact raises_of_firstError (by simp [firstError_decode_of_nbits hpos hle, hv, hcount, hone])
  · have hlen := walkBits_length_le s.node (rootIdx s.ncount) ⟨s.decCur, []⟩ (lowBits byte nbits.toNat)
    rw [length_lowBits, List.length_nil, Nat.zero_add] at hlen
    exact ⟨_, _, exec_decode hv hcount hleaf hpos hle byte, hlen, rfl⟩

/-! ### The walk bit by bit (R140, R141) -/

/-- The low `a + b` bits are the low `a`, then the `b` above them. -/
theorem lowBits_add {m : ℕ} (v : BitVec m) (a b : ℕ) : lowBits v (a + b) = lowBits v a ++ lowBits (v >>> a) b := by
  simp [lowBits, List.range_add, Function.comp_def]

theorem rootIdx_of_ne_zero {c : BitVec 10} (h : c.toNat ≠ 0) : rootIdx c = (c - 1#10).setWidth 9 :=
  if_pos (Nat.pos_of_ne_zero h)

theorem rootIdx_of_eq_zero {c : BitVec 10} (h : c.toNat = 0) : rootIdx c = 0#9 := if_neg (by omega)

section
variable {s : State} {b : Bool}

/-- The walk of one bit to a leaf emits the leaf's symbol and is back at the root (R140). -/
theorem walk_to_leaf (hk : (nodeAt s.node ((nodeAt s.node s.decCur.toNat).child b).toNat).kind = .leaf) :
    s.walk [b] =
      s.setWalk ⟨rootIdx s.ncount, [(nodeAt s.node ((nodeAt s.node s.decCur.toNat).child b).toNat).symbol]⟩ :=
  congrArg s.setWalk ((walkBit_eq ..).trans (if_pos hk))

/-- The walk of one bit to any other child stays there and emits nothing (R140). -/
theorem walk_to_child (hk : (nodeAt s.node ((nodeAt s.node s.decCur.toNat).child b).toNat).kind ≠ .leaf) :
    s.walk [b] = s.setWalk ⟨(nodeAt s.node s.decCur.toNat).child b, []⟩ :=
  congrArg s.setWalk ((walkBit_eq ..).trans (if_neg hk))

end

/-- Settles O47: one bit is one edge to a child, a leaf or not; the bits of two commands, one walk after the other, are one walk. -/
theorem decodeWalksBitByBit : Obligations.DecodeWalksBitByBit := by
  refine ⟨fun s byte hv hcount hleaf => ?_, fun s t a b byte ha hb hab hv hcount hleaf ht => ?_⟩
  · have hone : exec (.decode 1#8 byte) s = .next (s.walk [byte.getLsbD 0]).complete :=
      exec_decode hv hcount hleaf (by decide) (by decide) byte
    refine ⟨fun hk => ?_, fun hk => ?_⟩
    · rw [hone, walk_to_leaf hk, rootIdx_of_ne_zero hcount]; rfl
    · rw [hone, walk_to_child hk, State.setWalk, State.emits, List.append_nil]; rfl
  · have hsum : (a + b).toNat = a.toNat + b.toNat := BitVec.toNat_add_of_lt (by omega)
    rw [exec_decode hv hcount hleaf ha (by omega), Host.Outcome.next.injEq] at ht
    subst ht
    calc exec (.decode (a + b) byte) s
      _ = .next (s.walk (lowBits byte (a + b).toNat)).complete :=
        exec_decode hv hcount hleaf (by omega) (by omega) byte
      _ = .next ((s.walk (lowBits byte a.toNat)).walk (lowBits (byte >>> a.toNat) b.toNat)).complete := by
        rw [hsum, lowBits_add, walk_append]
      _ = exec (.decode b (byte >>> a.toNat)) (s.walk (lowBits byte a.toNat)).complete :=
        (exec_decode (s := (s.walk (lowBits byte a.toNat)).complete) hv hcount hleaf hb (by omega) _).symm

/-! ### DECRESET (R142) -/

theorem exec_decreset (s : State) :
    exec .decreset s = .next { s with decCur := if s.treeValid then rootIdx s.ncount else 0#9, pending := none } :=
  exec_of_none rfl

/-- Settles O49: with a tree the cursor is its root, which for an empty tree is 0 as it is without one. -/
theorem decresetGoesToTheRoot : Obligations.DecresetGoesToTheRoot := by
  refine ⟨fun w h => decode_of_fixed (by rw [h]; rfl) rfl, fun s => ⟨fun hv hpos => ?_, fun hnone => ?_⟩⟩
  · rw [exec_decreset, if_pos hv, rootIdx_of_ne_zero hpos.ne']
  · have hcur : (if s.treeValid then rootIdx s.ncount else 0#9) = 0#9 := by
      obtain hv | hzero := hnone
      · rw [hv]; rfl
      · rw [rootIdx_of_eq_zero hzero, ite_self]
    rw [exec_decreset, hcur]

end Sys2Proof.Machine
end

section
/-!
PROOFS. The error registers (spec/60_exceptions.md R153 to R155): what records an error, and that nothing but CLEAR and the reset input
takes a recorded one back.
-/

namespace Sys2Proof.Machine

/-- The error registers of the two states agree. -/
def SameError (s t : State) : Prop := t.errCode = s.errCode ∧ t.errWord = s.errWord

/-! ### Commands (R153) -/

/-- Only CLEAR's effect writes the error registers (R155). -/
theorem sameError_effectOf (s : State) {i : Instr} (hi : i ≠ .clear) : SameError s (effectOf s i) := by
  cases i with
  | clear => exact absurd rfl hi
  | flush => rw [effectOf, flushEffect_frame]; exact ⟨rfl, rfl⟩
  | _ => exact ⟨rfl, rfl⟩

/-- A later error is not recorded (R153). -/
theorem sameError_raise {s : State} (hs : s.errCode ≠ .none) (e : ErrCode) (w : Word) : SameError s (s.raise e w) := by
  rw [raise_of_error hs]; exact ⟨rfl, rfl⟩

theorem sameError_exec {s t : State} {i : Instr} (hs : s.errCode ≠ .none) (hi : i ≠ .clear) (h : exec i s = .next t) :
    SameError s t := by
  obtain ⟨e, -, rfl⟩ | ⟨-, rfl⟩ := exec_cases h
  · exact sameError_raise hs e _
  · exact sameError_effectOf s hi

/-- Settles O9: an effect leaves the error registers, so a changed code was raised, and an error is raised before any effect. -/
theorem errorsArePrecise : Obligations.ErrorsArePrecise := by
  refine fun s t p i hp hi h => ⟨fun hne => ?_, fun hs => sameError_exec hs hi h⟩
  have hs : s.errCode = .none := by_contra fun hs => hne (sameError_exec hs hi h).1
  obtain ⟨e, -, rfl⟩ | ⟨-, rfl⟩ := exec_cases h
  · rw [State.commandWord, command_of_pending hp, raise_of_none hs]
    exact ⟨hs, rfl⟩
  · exact absurd (sameError_effectOf s hi).1 hne

/-! ### Steps (R154, R155) -/

/-- A core step that changes the registers of a recorded error executes the word of CLEAR. -/
theorem pending_clear_of_coreStep {s t : State} (hs : s.errCode ≠ .none) (h : coreStep s = .next t)
    (hne : ¬ SameError s t) : ∃ a, s.pending = some ⟨0x01000000#32, a⟩ := by
  obtain ⟨-, rfl⟩ | ⟨p, hp, ⟨-, rfl⟩ | ⟨-, -, rfl⟩ | ⟨-, -, ⟨e, -, rfl⟩ | ⟨i, hd, hexec⟩⟩⟩ := coreStep_cases h
  · exact absurd ⟨rfl, rfl⟩ hne
  · exact absurd ⟨rfl, rfl⟩ hne
  · exact absurd ⟨rfl, rfl⟩ hne
  · exact absurd (sameError_raise hs .illegalCmd p.word) hne
  · obtain rfl : i = .clear := by_contra fun hi => hne (sameError_exec hs hi hexec)
    have hw : 0x01000000#32 = p.word := encode_of_decode hd
    exact ⟨p.arg, by rw [hp, hw]⟩

theorem sameError_hostRead {s t : State} {addr size : ℕ} (h : hostRead s addr size = .next t) : SameError s t := by
  cases hoff : windowOffset addr size with
  | none => rw [hostRead_of_none hoff] at h; cases h
  | some off =>
    rw [hostRead_of_offset hoff] at h; cases h
    obtain hr | hr | ⟨-, hr⟩ := regRead_state s off <;> rw [hr] <;> exact ⟨rfl, rfl⟩

/-- An OVERRUN is a later error, and not recorded (R46, R153). -/
theorem sameError_issue {s : State} (hs : s.errCode ≠ .none) (v : Word) : SameError s (s.issue v) := by
  cases hp : s.pending with
  | none => rw [issue_of_idle hp]; exact ⟨rfl, rfl⟩
  | some p => rw [issue_of_busy hp]; exact sameError_raise hs .overrun v

theorem sameError_hostWrite {s t : State} {addr size : ℕ} {v : Word} (hs : s.errCode ≠ .none)
    (h : hostWrite s addr size v = .next t) : SameError s t := by
  cases hoff : windowOffset addr size with
  | none => rw [hostWrite_of_none hoff] at h; cases h
  | some off =>
    rw [hostWrite_of_offset hoff] at h; cases h
    obtain ⟨-, hw⟩ | ⟨-, hw⟩ | ⟨-, -, hw⟩ := regWrite_cases s off v <;> rw [hw]
    · exact sameError_issue hs v
    · exact ⟨rfl, rfl⟩
    · exact ⟨rfl, rfl⟩

/-- Settles O10: no host access changes the registers of a recorded error, and the core step only for the word of CLEAR. -/
theorem onlyClearOrResetEndsTheLockout : Obligations.OnlyClearOrResetEndsTheLockout := by
  intro s t hs h hne
  have hchanged : ¬ SameError s t := not_and_or.mpr hne
  obtain ⟨hsched, hcore⟩ | ⟨e, rest, hsched, he⟩ := step_cases h
  · exact .inr ⟨.inl hsched, pending_clear_of_coreStep hs hcore hchanged⟩
  · cases e with
    | core => exact .inr ⟨.inr ⟨rest, hsched⟩, pending_clear_of_coreStep (s := s.setSched rest) hs he hchanged⟩
    | reset => exact .inl ⟨rest, hsched⟩
    | hostRead addr size => exact absurd (sameError_hostRead he) hchanged
    | hostWrite addr size v => exact absurd (sameError_hostWrite (s := s.setSched rest) hs he) hchanged

end Sys2Proof.Machine
end

section
/-!
PROOFS. Reset (spec/70_reset_and_hazards.md R180, R181) beside CLEAR (spec/40_control.md R86), and what a read returns while a
command is pending (R187).
-/

namespace Sys2Proof.Machine

/-! ### CLEAR beside the reset state (R86, R180) -/

/-- CLEAR gives the reset state, but for ARG, the output queue and the model's own fields, which it keeps. -/
theorem exec_clear (s : State) : exec .clear s = .next
    { State.reset with arg := s.arg, outq := s.outq, sched := s.sched, reads := s.reads, freeIdx := s.freeIdx } :=
  exec_of_none rfl

/-- Every register but ID reads 0 after reset, the reserved offsets too (R44, R181). -/
theorem regRead_reset {off : ℕ} (h : off ≠ 0x00) : (regRead State.reset off).1 = 0#32 := by
  unfold regRead
  split
  · exact absurd rfl h
  all_goals rfl

/-- Settles O13: the reset state written out, the tables element by element. -/
theorem resetGivesTheResetValues : Obligations.ResetGivesTheResetValues := by
  refine ⟨rfl, rfl, rfl, regRead_reset (by decide), rfl, regRead_reset (by decide), rfl, regRead_reset (by decide), rfl,
    regRead_reset (by decide), regRead_reset (by decide), rfl, rfl, regRead_reset (by decide), rfl, regRead_reset (by decide),
    rfl, fun sym => ?_, nodeAt_replicate, rfl, rfl, rfl, fun sym => ?_, rfl, rfl, rfl, exec_clear _⟩
  · exact ⟨symGet_replicate .., symGet_replicate ..⟩
  · exact ⟨symGet_replicate .., symGet_replicate .., symGet_replicate ..⟩

/-- Settles O14: the reset input is taken from the schedule, and CLEAR differs from it in the fields it keeps. -/
theorem resetInputGivesTheResetState : Obligations.ResetInputGivesTheResetState := by
  intro s rest h
  have hstep : step s = .next { State.reset with sched := rest, reads := s.reads, freeIdx := s.freeIdx } := step_of_cons h
  exact ⟨hstep, _, exec_clear s, hstep⟩

/-! ### Reads while a command is pending (R187) -/

theorem quietRead_of_busy {s : State} (h : s.pending ≠ none) (v : Word) :
    quietRead s v = (Config.freeWord s.freeIdx, s.drawFree) := by
  simp [quietRead, State.busy, Option.isSome_iff_ne_none.mpr h]

/-- Settles O19: STATUS is O16's; the five quiet registers draw a free value whatever they hold. -/
theorem busyReadsAreUnspecified : Obligations.BusyReadsAreUnspecified := by
  intro s p hp
  have hbusy : s.pending ≠ none := by simp [hp]
  obtain ⟨hbit, -, hfree, -, -⟩ := statusShowsItsFields
  obtain ⟨hbits, hdraws⟩ := hfree s hbusy
  refine ⟨rfl, rfl, rfl, by rw [hbit, hp]; rfl, hbits, hdraws, fun off hoff => ?_⟩
  simp only [List.mem_cons, List.not_mem_nil, or_false] at hoff
  obtain rfl | rfl | rfl | rfl | rfl := hoff <;> exact quietRead_of_busy hbusy _

end Sys2Proof.Machine
end
